-- ==== Sys2Proof/Word.lean ====
section
/-! DEFINITION. The byte, byte-string and address types of KTOKEN-CORE (spec/00_scope.md rules R12, R13; spec/20_memory.md rule R60). -/

namespace Sys2Proof

/-- An unsigned 8-bit value (R12). -/
abbrev Byte := BitVec 8

/-- A byte string of fixed length `n`: element 0 is the first byte (R13, R21). -/
abbrev Bytes (n : Nat) := Vector Byte n

/-- The type of byte strings of length 16 (R13). -/
abbrev B16 := Bytes 16

/-- A host address: 9 bits, 0x000 to 0x1FF (R60). An address above 0x1FF cannot be expressed (R69). -/
abbrev Addr := BitVec 9

end Sys2Proof
end

