-- ==== Sys2Proof/Syntax.lean ====
section
/-! DEFINITION. The commands (spec/opcode_table.json, spec/30_encoding.md rule R91), the registers of the host address map
(spec/20_memory.md rule R61), the accesses of the host port (rules R62, R63) and the host script form (spec/30_encoding.md rules R97, R98). -/

namespace Sys2Proof

/-- The seven commands, one constructor per row of spec/opcode_table.json. A command has no operand field (R90, R96): its
operands are registers fixed by its rule. -/
inductive Instr where
  /-- opcode 0x00, R220 -/
  | nop
  /-- opcode 0x01, R137 -/
  | mac
  /-- opcode 0x02, R152 -/
  | resolve
  /-- opcode 0x03, R172 -/
  | decode
  /-- opcode 0x04, R192 -/
  | derive
  /-- opcode 0x05, R158 -/
  | load
  /-- opcode 0x06, R221 -/
  | clear
deriving DecidableEq, Repr

/-- The registers and buffers of the host address map, in the order of its rows (R61). -/
inductive Reg where
  | cmd | status | err | errInfo | tokLen | ver | msgLen | digits | interval | subIdx | flags | checksum
  | time | timeBcd | serial | codeBin | encSeed | seed | digest | kdOut | code | tokBuf | msgBuf
deriving DecidableEq, Repr

/-- One access of the host port: one byte at one address (R62, R63, R68). -/
inductive HostAccess where
  /-- `MemRead(addr, 1)` (R62) -/
  | read (a : Addr)
  /-- `MemWrite(addr, 1, v)` (R63) -/
  | write (a : Addr) (v : Byte)
deriving DecidableEq, Repr

/-- Who moves next. An execution is an interleaving of host steps and engine steps (R70), and reset is an event from outside
(R260); a list of turns writes one interleaving down. -/
inductive Turn where
  /-- the host makes its next access, or waits if the access is held (R64) -/
  | host (a : HostAccess)
  /-- the engine steps before the host's next access (R70) -/
  | engine
  /-- reset is applied (R260, R261) -/
  | reset
deriving DecidableEq, Repr

/-- A statement of the host script (R97) or a pseudo-statement (R98). -/
inductive HostStmt where
  /-- `WR REG+k, hh` (`WR REG, hh` is `k = 0`) -/
  | wr (r : Reg) (k : Nat) (v : Byte)
  /-- `RD REG+k` (`RD REG` is `k = 0`) -/
  | rd (r : Reg) (k : Nat)
  /-- `CMD name` -/
  | cmdName (i : Instr)
  /-- `CMD hh` -/
  | cmdByte (op : Byte)
  /-- `WRS REG, h0 h1 ... hn` -/
  | wrs (r : Reg) (bs : List Byte)
  /-- `WRT REG, "text"` -/
  | wrt (r : Reg) (text : List Char)
  /-- `RDS REG, n` -/
  | rds (r : Reg) (n : Nat)
  /-- `WAIT`, with the number of its reads that see `BUSY = 1`, which the spec leaves open (R72) -/
  | wait (busyReads : Nat)
  /-- `RUN name`, with the number of busy reads of its `WAIT` -/
  | run (i : Instr) (busyReads : Nat)
  /-- `EXPECT REG = bytes` -/
  | expect (r : Reg) (bs : List Byte)
deriving DecidableEq, Repr

end Sys2Proof
end

