-- ==== Sys2Proof/Machine/AddressMap.lean ====
section
/-! DEFINITION. The host register space's address map: spec/20_memory.md rule R61, with the sizes and host accesses of
spec/10_state.md rule R26. -/

namespace Sys2Proof.Machine

/-- The host access of a register (R61). -/
inductive HostAccessRight where
  /-- read only: a host write changes nothing (R63 d) -/
  | r
  /-- write only: reads 0x00 (R62) -/
  | w
  /-- read and write -/
  | rw
deriving DecidableEq, Repr

/-- The rows of the address map, reserved ranges left out (R61). -/
def mapRows : List Reg :=
  [.cmd, .status, .err, .errInfo, .tokLen, .ver, .msgLen, .digits, .interval, .subIdx, .flags, .checksum, .time, .timeBcd,
   .serial, .codeBin, .encSeed, .seed, .digest, .kdOut, .code, .tokBuf, .msgBuf]

/-- The lowest host address of a register (R61). -/
def regBase : Reg → Nat
  | .cmd => 0x000 | .status => 0x001 | .err => 0x002 | .errInfo => 0x003 | .tokLen => 0x004 | .ver => 0x005
  | .msgLen => 0x006 | .digits => 0x008 | .interval => 0x009 | .subIdx => 0x00A | .flags => 0x00C | .checksum => 0x00E
  | .time => 0x010 | .timeBcd => 0x018 | .serial => 0x020 | .codeBin => 0x028 | .encSeed => 0x030 | .seed => 0x040
  | .digest => 0x050 | .kdOut => 0x060 | .code => 0x070 | .tokBuf => 0x080 | .msgBuf => 0x100

/-- The number of bytes of a register (R26, R38, R61). -/
def regSize : Reg → Nat
  | .cmd => 1 | .status => 1 | .err => 1 | .errInfo => 1 | .tokLen => 1 | .ver => 1 | .msgLen => 2 | .digits => 1
  | .interval => 1 | .subIdx => 1 | .flags => 2 | .checksum => 2 | .time => 8 | .timeBcd => 8 | .serial => 6
  | .codeBin => 4 | .encSeed => 16 | .seed => 16 | .digest => 16 | .kdOut => 16 | .code => 8 | .tokBuf => 96
  | .msgBuf => 256

/-- The host access of a register (R26, R61). -/
def regAccess : Reg → HostAccessRight
  | .cmd => .w | .status => .r | .err => .r | .errInfo => .r | .tokLen => .rw | .ver => .r | .msgLen => .rw
  | .digits => .rw | .interval => .rw | .subIdx => .r | .flags => .r | .checksum => .rw | .time => .rw | .timeBcd => .r
  | .serial => .rw | .codeBin => .r | .encSeed => .rw | .seed => .rw | .digest => .r | .kdOut => .r | .code => .r
  | .tokBuf => .rw | .msgBuf => .rw

/-- The register at a host address and the index of its byte there; `none` at a reserved address (R61, R65). -/
def locate (a : Addr) : Option (Reg × Nat) :=
  (mapRows.find? fun r => decide (regBase r ≤ a.toNat) && decide (a.toNat < regBase r + regSize r)).map
    fun r => (r, a.toNat - regBase r)

/-- The host address of byte `k` of a register: base address plus `k` (R66, R97). -/
def regAddr (r : Reg) (k : Nat) : Addr := BitVec.ofNat 9 (regBase r + k)

end Sys2Proof.Machine
end

