-- ==== Sys2Proof/WellFormed.lean ====
section
/-! DEFINITION. Which terms of Syntax.lean stand for something the hardware has. A command has no field, so every `Instr` is
well-formed (spec/30_encoding.md rules R90, R96). A host statement is well-formed when every address it names has 9 bits
(spec/20_memory.md rule R69: a larger one cannot be expressed) and every character it writes has an ASCII code (R98). -/

namespace Sys2Proof

/-- Commands carry no operand fields (R90, R96): there is nothing that could be ill-formed. -/
def Instr.wf : Instr → Bool
  | .nop => true
  | .mac => true
  | .resolve => true
  | .decode => true
  | .derive => true
  | .load => true
  | .clear => true

/-- The `n` bytes from byte `k` of a register on have 9-bit addresses (R60, R69). -/
def addressesFit (r : Reg) (k n : Nat) : Bool := decide (Machine.regBase r + k + n ≤ 0x200)

/-- A character has an ASCII code (R98: `WRT` writes the ASCII codes of its characters). -/
def isAscii (c : Char) : Bool := decide (c.toNat < 128)

/-- A host statement names only addresses and characters that exist. -/
def HostStmt.wf : HostStmt → Bool
  | .wr r k _ => addressesFit r k 1
  | .rd r k => addressesFit r k 1
  | .cmdName i => i.wf
  | .cmdByte _ => true
  | .wrs r bs => addressesFit r 0 bs.length
  | .wrt r text => addressesFit r 0 text.length && text.all isAscii
  | .rds r n => addressesFit r 0 n
  | .wait _ => true
  | .run i _ => i.wf
  | .expect r bs => addressesFit r 0 bs.length

end Sys2Proof
end

