-- ==== Sys2Proof/Decode.lean ====
section
/-! DEFINITION. Format `C8`: a command is one byte and its bits 7:0 are the opcode (spec/30_encoding.md rules R90, R91, R93). The
decoder is total on every byte and rejects an illegal one by name; the encoder stands after it. -/

namespace Sys2Proof

/-- What a command byte names. -/
inductive Decoded where
  /-- one of the seven commands of R91 -/
  | command (i : Instr)
  /-- an illegal opcode, 0x07 to 0xFF (R93) -/
  | illegalCommand (op : Byte)
deriving DecidableEq, Repr

/-- The opcode map (R91). -/
def opcodeMap : List (Byte × Instr) :=
  [(0x00#8, .nop), (0x01#8, .mac), (0x02#8, .resolve), (0x03#8, .decode), (0x04#8, .derive), (0x05#8, .load), (0x06#8, .clear)]

/-- The command a byte names; every value the map does not list is illegal (R91, R93). -/
def decode (op : Byte) : Decoded :=
  match opcodeMap.find? fun row => row.1 == op with
  | some row => .command row.2
  | none => .illegalCommand op

/-- The command byte of a command (R91). -/
def encode : Instr → Byte
  | .nop => 0x00#8
  | .mac => 0x01#8
  | .resolve => 0x02#8
  | .decode => 0x03#8
  | .derive => 0x04#8
  | .load => 0x05#8
  | .clear => 0x06#8

/-- The command byte of an opcode-table row's bits `w`: a command is its first byte and nothing else (R90), and bits above
`nbits` are 0. -/
def tableByte (nbits w : Nat) : Byte := BitVec.ofNat 8 (w % 2 ^ nbits)

/-- The command that the decoder reads from a row's bits, `none` where it rejects them. -/
def decodeTableWord (nbits w : Nat) : Option Instr :=
  match decode (tableByte nbits w) with
  | .command i => some i
  | .illegalCommand _ => none

end Sys2Proof
end

