-- ==== Sys2Proof/Config.lean ====
section
/-! DEFINITION. What is fixed when the block is built (spec/00_scope.md rule R9, spec/70_reset_and_hazards.md rule R263): the cipher wired
to the cipher port, `MAGIC`, `TRAILER`, and the three numbers the spec itself fixes. -/

namespace Sys2Proof

/-- The parameters of rule R9 that differ between two blocks. The commands are written over this record, so that they can be
evaluated at a concrete cipher and claims can be made for every cipher; the machine itself runs them at `Config.params`. -/
structure Params where
  /-- The external cipher's encryption of one block, key first (R9, R10). -/
  aesEnc : B16 → B16 → B16
  /-- The external cipher's decryption of one block, key first (R9, R10). -/
  aesDec : B16 → B16 → B16
  /-- `MAGIC`, the fixed 6-byte protocol constant whose bytes the source does not print (R9, R11). -/
  magic : Bytes 6
  /-- `TRAILER`, the number of characters required after the 76 that the source describes: 0 to 20 (R9). -/
  trailer : Fin 21

/-- The required value of `TOKLEN`, `76 + TRAILER` (spec/30_encoding.md rule R100, spec/42_token_decoder.md rule R172). -/
def Params.tokenLength (p : Params) : Nat := 76 + p.trailer.val

/-- The one property of the cipher that the round trip needs and nothing else does (R10). -/
def Params.Inverse (p : Params) : Prop := ∀ k b : B16, p.aesDec k (p.aesEnc k b) = b

/-- OPEN (R9, R10): the cipher's encryption. No body: no proof can lean on what it computes. Log entry 1. -/
opaque Config.aesEnc : B16 → B16 → B16

/-- OPEN (R9, R10): the cipher's decryption. No body. Log entry 1. -/
opaque Config.aesDec : B16 → B16 → B16

/-- OPEN (R9, R11): the six bytes of `MAGIC`. No body. Log entry 2. -/
opaque Config.magic : Bytes 6

/-- OPEN (R9): `TRAILER`. No body: the model stands for every value 0 to 20, the default 0 among them. Log entry 3. -/
opaque Config.trailer : Fin 21

/-- The parameters of the block that `Machine.exec` runs. -/
def Config.params : Params :=
  { aesEnc := Config.aesEnc, aesDec := Config.aesDec, magic := Config.magic, trailer := Config.trailer }

/-- `MSG_MAX`, fixed by the spec (R9). -/
def Config.msgMax : Nat := 256

/-- `TOK_MAX`, fixed by the spec (R9): the size of `TOKBUF`. -/
def Config.tokMax : Nat := 96

/-- `TIME_MAX`, fixed by the spec (R9): the last second of the year 9999. -/
def Config.timeMax : Nat := 253402300799

end Sys2Proof
end

