-- ==== Sys2Proof/Machine/State.lean ====
section
/-! DEFINITION. The state of one KTOKEN-CORE (spec/10_state.md rule R20) and its reset values (rule R48), the reasons a step could
stop, and three fields of the model's own (the turns to come, the replies given, the cipher requests made), which no rule of the
spec calls state and which stand here because a step has no other input or output. -/

namespace Sys2Proof.Machine

/-- The sequencing state in place of a program counter (R24): `IDLE` or `RUN(op)`, `op` the command byte. -/
inductive Phase where
  | idle
  | run (op : Byte)
deriving DecidableEq, Repr

/-- The direction of a cipher request (R47). -/
inductive CipherDir where
  | enc
  | dec
deriving DecidableEq, Repr

/-- A request `(dir, key, din)` on the cipher port; it always carries its full key (R47). -/
structure CipherReq where
  dir : CipherDir
  key : B16
  din : B16
deriving DecidableEq, Repr

/-- The reasons for which the machine stops with a fault. There is none: "every command is defined in every state" (R264), the engine
step never blocks (R71), an error is a completed command with a code in `ERR` (R235), and an address outside the host register
space cannot be expressed (R69). Nothing raises it, so it is safe. -/
inductive Fault where
deriving DecidableEq, Repr

/-- The reasons for which the model has no meaning to give. -/
inductive Refusal where
  /-- Raised by `exec` alone, for a command that has no meaning yet; safe, since nothing is claimed of it. Every command of this
  model has its meaning, so no arm raises it. -/
  | notModelled (mnemonic : String)
deriving DecidableEq, Repr

/-- The state of one KTOKEN-CORE. Numeric registers are bit vectors, byte-string registers are vectors of bytes (R66). -/
structure State where
  /-- `PHASE` (R24). -/
  phase : Phase
  /-- `STATUS.DONE` (R41). -/
  done : Bool
  /-- `STATUS.SEEDV` (R41, R43). -/
  seedV : Bool
  /-- `STATUS.CODEV` (R41). -/
  codeV : Bool
  /-- `ERR`, 1 byte (R42). -/
  err : Byte
  /-- `ERRINFO`, 1 byte (R42). -/
  errInfo : Byte
  /-- `TOKLEN`, 1 byte (R26, R32). -/
  tokLen : Byte
  /-- `VER`, 1 byte (R26, R37). -/
  ver : Byte
  /-- `MSGLEN`, 2 bytes, most significant first (R26, R32, R66). -/
  msgLen : BitVec 16
  /-- `DIGITS`, 1 byte (R26, R29). -/
  digits : Byte
  /-- `INTERVAL`, 1 byte (R26, R29). -/
  interval : Byte
  /-- `SUBIDX`, 1 byte (R26, R34). -/
  subIdx : Byte
  /-- `FLAGS`, 2 bytes, most significant first (R26, R30, R66). -/
  flags : BitVec 16
  /-- `CHECKSUM`, 15 bits in 2 bytes, most significant first; the sixteenth bit is hardwired to 0 and is not storage (R26, R31). -/
  checksum : BitVec 15
  /-- `TIME`, 8 bytes, most significant first (R26, R33, R66). -/
  time : BitVec 64
  /-- `TIMEBCD`, 8 bytes (R26, R34). -/
  timeBcd : Bytes 8
  /-- `SERIAL`, 6 bytes (R26, R27). -/
  serial : Bytes 6
  /-- `CODEBIN`, 4 bytes, most significant first (R26, R34, R66). -/
  codeBin : BitVec 32
  /-- `ENCSEED`, 16 bytes (R26, R30). -/
  encSeed : B16
  /-- `SEED`, 16 bytes (R26, R28). -/
  seed : B16
  /-- `DIGEST`, 16 bytes (R26, R36). -/
  digest : B16
  /-- `KDOUT`, 16 bytes (R26, R34). -/
  kdOut : B16
  /-- `CODE`, 8 bytes (R26, R35). -/
  code : Bytes 8
  /-- The bytes of the two buffers `TOKBUF` and `MSGBUF` (R38) at their host addresses (R61), in canonical form: addresses strictly
  rising and no byte 0x00 listed, 0x00 being what an unlisted address reads as (R48). -/
  mem : List Host.Cell
  /-- The MODEL's own field, no state of the spec: the turns that are still to come (R70, R260). It is the machine's input. Log
  entry 4. -/
  script : List Turn
  /-- The MODEL's own field, no state of the spec: the bytes that the host's reads have returned, oldest first (R62). Log entry 5. -/
  replies : List Byte
  /-- The MODEL's own field, no state of the spec (R20, R47): the cipher trace of the last command, oldest request first. Log entry 5. -/
  trace : List CipherReq
deriving DecidableEq, Repr

/-- The machine right after reset: every register, flag and buffer byte zero, `PHASE = IDLE` (R48, R260); no turn is to come,
no reply was given, no cipher request was made. -/
def State.reset : State :=
  { phase := .idle, done := false, seedV := false, codeV := false, err := 0#8, errInfo := 0#8, tokLen := 0#8, ver := 0#8,
    msgLen := 0#16, digits := 0#8, interval := 0#8, subIdx := 0#8, flags := 0#16, checksum := 0#15, time := 0#64,
    timeBcd := Vector.replicate 8 0#8, serial := Vector.replicate 6 0#8, codeBin := 0#32,
    encSeed := Vector.replicate 16 0#8, seed := Vector.replicate 16 0#8, digest := Vector.replicate 16 0#8,
    kdOut := Vector.replicate 16 0#8, code := Vector.replicate 8 0#8, mem := [], script := [], replies := [], trace := [] }

end Sys2Proof.Machine
end

