-- ==== Sys2Proof/Machine/Ops.lean ====
section
/-! DEFINITION. The operations the command rules share: byte strings and byte order (spec/00_scope.md rules R12 to R14,
spec/20_memory.md rule R66), the buffer memory (spec/10_state.md rule R38), the cipher port (rule R47), issuing a command
(spec/30_encoding.md rule R92), completing it, and raising an error (spec/60_exceptions.md rules R231, R235, R236). -/

namespace Sys2Proof.Machine

/-! ### Byte strings -/

/-- `rep(v, n)`: `n` copies of byte `v` (R13). -/
def rep (n : Nat) (v : Byte) : Bytes n := Vector.replicate n v

/-- Element `i` of a byte string (R13); no rule reads beyond the end (log entry 12). -/
def byteAt {n : Nat} (v : Bytes n) (i : Nat) : Byte := v[i]?.getD 0#8

/-- A byte string with element `i` replaced (R63 b). -/
def setByteAt {n : Nat} (v : Bytes n) (i : Nat) (b : Byte) : Bytes n := v.setIfInBounds i b

/-- The first `n` elements of a list as a byte string, with zero bytes where the list is shorter. -/
def bytesOf (n : Nat) (l : List Byte) : Bytes n := Vector.ofFn fun i : Fin n => l.getD i.val 0#8

/-- `s[i..j)`, elements `i` to `j - 1` (R13). -/
def slice (s : List Byte) (i j : Nat) : List Byte := (s.drop i).take (j - i)

/-- `a xor b`, element by element (R13). -/
def xor16 (a b : B16) : B16 := Vector.ofFn fun i : Fin 16 => a[i] ^^^ b[i]

/-! ### Numeric registers, most significant byte at the lowest address (R66) -/

/-- Byte `k` of a number, counted from the least significant; the bits above its width are 0 (R31). -/
def numByte {w : Nat} (v : BitVec w) (k : Nat) : Byte := (v >>> (8 * k)).setWidth 8

/-- A number with byte `k`, counted from the least significant, replaced; bits above its width are not stored (R31). -/
def setNumByte {w : Nat} (v : BitVec w) (k : Nat) (b : Byte) : BitVec w :=
  (v &&& ~~~((BitVec.allOnes 8).setWidth w <<< (8 * k))) ||| (b.setWidth w <<< (8 * k))

/-- Four bytes as an unsigned 32-bit number, most significant first (R109, R200). -/
def word32 (b0 b1 b2 b3 : Byte) : BitVec 32 :=
  (b0.setWidth 32 <<< 24) ||| (b1.setWidth 32 <<< 16) ||| (b2.setWidth 32 <<< 8) ||| b3.setWidth 32

/-! ### The buffer memory -/

/-- The host addresses that are bytes of `TOKBUF` or `MSGBUF` (R38, R61). -/
def isBufferAddr (a : Nat) : Bool :=
  (decide (regBase .tokBuf ≤ a) && decide (a < regBase .tokBuf + Config.tokMax))
    || (decide (regBase .msgBuf ≤ a) && decide (a < regBase .msgBuf + Config.msgMax))

/-- What a buffer byte that nothing has written reads as: its reset value (R23, R48). Log entry 7. -/
def unwrittenByte : Byte := 0#8

/-- One byte of the buffer memory. -/
def memByte : List Host.Cell → Nat → Byte
  | [], _ => unwrittenByte
  | (k, b) :: rest, a => if k = a then b else memByte rest a

/-- One byte of the buffer memory written; the list stays in canonical form. -/
def setMemByte : List Host.Cell → Nat → Byte → List Host.Cell
  | [], a, v => if v = unwrittenByte then [] else [(a, v)]
  | (k, b) :: rest, a, v =>
    if a < k then (if v = unwrittenByte then (k, b) :: rest else (a, v) :: (k, b) :: rest)
    else if a = k then (if v = unwrittenByte then rest else (a, v) :: rest)
    else (k, b) :: setMemByte rest a v

/-- The canonical form of the buffer memory: addresses strictly rising, every one a buffer address, no listed byte equal to what
an unlisted address reads as. -/
abbrev Memory.wf (m : List Host.Cell) : Prop :=
  m.Pairwise (fun c d => c.1 < d.1) ∧ ∀ c ∈ m, isBufferAddr c.1 = true ∧ c.2 ≠ unwrittenByte

/-! ### The cipher port -/

/-- The request that `Enc(k, b)` records on the cipher trace (R15, R47). -/
def encReq (k b : B16) : CipherReq := ⟨.enc, k, b⟩

/-- The request that `Dec(k, b)` records on the cipher trace (R15, R47). -/
def decReq (k b : B16) : CipherReq := ⟨.dec, k, b⟩

/-! ### Issue, completion, errors -/

/-- An accepted host write of byte `op` to `CMD` (R92). It is also what ends the life of an older error (R239). -/
def issue (op : Byte) (s : State) : State :=
  { s with phase := .run op, done := false, err := 0#8, errInfo := 0#8 }

/-- The error kinds (R231). -/
inductive ErrorKind where
  | malformedTokenString
  | integrityError
  | invalidParameter
  | illegalCommand
  | notReady
deriving DecidableEq, Repr

/-- The code of an error kind in `ERR` (R110, R231). -/
def errorCode : ErrorKind → Byte
  | .malformedTokenString => 1#8
  | .integrityError => 2#8
  | .invalidParameter => 3#8
  | .illegalCommand => 4#8
  | .notReady => 5#8

/-- A command completes with success: `ERR <- 0; ERRINFO <- 0`, `DONE <- 1`, `PHASE <- IDLE` (R70, R236). -/
def succeed (s : State) : State :=
  { s with phase := .idle, done := true, err := 0#8, errInfo := 0#8 }

/-- `raise E(info)`: a command completes with an error (R235, R236). Nothing is saved and control goes nowhere: the engine is
idle and accepts the next command. Writes made before it stay. There is no return from an error (R239): `issue` clears it. -/
def raise (e : ErrorKind) (info : Byte) (s : State) : State :=
  { s with phase := .idle, done := true, err := errorCode e, errInfo := info }

end Sys2Proof.Machine
end

