-- ==== Sys2Proof/Machine/Operands.lean ====
section
/-! DEFINITION. The operands of the commands: fixed registers and buffer slices (spec/30_encoding.md rule R96), and the legality
checks a command makes on them (spec/10_state.md rules R22, R29). -/

namespace Sys2Proof.Machine

/-- `TOKBUF[i]` (R38). -/
def tokChar (s : State) (i : Nat) : Byte := memByte s.mem (regBase .tokBuf + i)

/-- `MSGBUF[i]` (R38). -/
def msgByte (s : State) (i : Nat) : Byte := memByte s.mem (regBase .msgBuf + i)

/-- `TOKBUF[i..j)` (R38). -/
def tokSlice (s : State) (i j : Nat) : List Byte := (List.range (j - i)).map fun k => tokChar s (i + k)

/-- `MSGBUF[0..MSGLEN)` (R137). -/
def message (s : State) : List Byte := (List.range s.msgLen.toNat).map (msgByte s)

/-- `serialSuffix = SERIAL[2..6)` (R27). -/
def serialSuffix (s : State) : List Byte := slice s.serial.toList 2 6

/-- `DIGITS` is 1 to 8 (R29). -/
def digitsLegal (s : State) : Bool := decide (1 ≤ s.digits.toNat) && decide (s.digits.toNat ≤ 8)

/-- `INTERVAL` is 30 or 60 (R29). -/
def intervalLegal (s : State) : Bool := s.interval == 30#8 || s.interval == 60#8

/-- `TIME <= TIME_MAX` (R193). -/
def timeLegal (s : State) : Bool := decide (s.time.toNat ≤ Config.timeMax)

end Sys2Proof.Machine
end

