-- ==== Sys2Proof/Machine/CodeDeriver.lean ====
section
/-! DEFINITION. CodeDeriver: the `DERIVE` command, spec/43_code_deriver.md. -/

namespace Sys2Proof.Machine

/-! ### Time -/

/-- `anchor = T - T mod (4 * I)` (R194). -/
def anchorOf (T I : Nat) : Nat := T - T % (4 * I)

/-- `sub = (T mod (4 * I)) div I` (R194). -/
def subIndexOf (T I : Nat) : Nat := T % (4 * I) / I

/-- A date of the proleptic Gregorian calendar. -/
structure CivilDate where
  year : Nat
  month : Nat
  day : Nat
deriving DecidableEq, Repr

/-- The date of day number `days`, day 0 being 1970-01-01 (R195). -/
def civilOfDays (days : Nat) : CivilDate :=
  let z := days + 719468
  let era := z / 146097
  let doe := z - era * 146097
  let yoe := (doe - doe / 1460 + doe / 36524 - doe / 146096) / 365
  let y := yoe + era * 400
  let doy := doe - (365 * yoe + yoe / 4 - yoe / 100)
  let mp := (5 * doy + 2) / 153
  let m := if mp < 10 then mp + 3 else mp - 9
  { year := if m ≤ 2 then y + 1 else y, month := m, day := doy - (153 * mp + 2) / 5 + 1 }

/-- `bcd(n) = ((n div 10) << 4) | (n mod 10)` for `n` from 0 to 99 (R196). -/
def bcd (n : Nat) : Byte := (BitVec.ofNat 8 (n / 10) <<< 4) ||| BitVec.ofNat 8 (n % 10)

/-- The timestamp bytes of a date, an hour and a minute (R107, R197). -/
def stampOf (d : CivilDate) (hour minute : Nat) : Bytes 8 :=
  bytesOf 8 [bcd (d.year / 100), bcd (d.year % 100), bcd d.month, bcd d.day, bcd hour, bcd minute, 0x00#8, 0x00#8]

/-- The timestamp bytes of an anchor time (R195, R197). -/
def timestampBytes (anchor : Nat) : Bytes 8 :=
  let sod := anchor % 86400
  stampOf (civilOfDays (anchor / 86400)) (sod / 3600) (sod % 3600 / 60)

/-! ### The chain -/

/-- The input block of a round with prefix length `n` (R108, R198). -/
def deriveBlock (ts : Bytes 8) (suffix : List Byte) (n : Nat) : B16 :=
  bytesOf 16 (slice ts.toList 0 n ++ List.replicate (8 - n) 0xAA#8 ++ suffix ++ List.replicate 4 0xBB#8)

/-- The prefix lengths of the five rounds, in order (R199). -/
def roundLengths : List Nat := [2, 3, 4, 5, 8]

/-- A derivation in progress: the running key and the cipher requests made so far (R46, R47). -/
structure ChainRun where
  key : B16
  trace : List CipherReq
deriving DecidableEq, Repr

/-- One round: the running key is the cipher key, the block is the cipher data, the output is the next key (R199). -/
def chainRound (p : Params) (ts : Bytes 8) (suffix : List Byte) (r : ChainRun) (n : Nat) : ChainRun :=
  { key := p.aesEnc r.key (deriveBlock ts suffix n), trace := r.trace ++ [encReq r.key (deriveBlock ts suffix n)] }

/-- The chain of five rounds from a seed (R199). -/
def chainRun (p : Params) (seed : B16) (ts : Bytes 8) (suffix : List Byte) : ChainRun :=
  roundLengths.foldl (chainRound p ts suffix) { key := seed, trace := [] }

/-- The derivation output (R199). -/
def deriveKey (p : Params) (seed : B16) (ts : Bytes 8) (suffix : List Byte) : B16 := (chainRun p seed ts suffix).key

/-- The cipher trace of a derivation (R192). -/
def deriveTrace (p : Params) (seed : B16) (ts : Bytes 8) (suffix : List Byte) : List CipherReq := (chainRun p seed ts suffix).trace

/-- `word(kdout, s)`: the four bytes at offset `4 * s`, most significant first (R109, R200). -/
def wordAt (kdout : B16) (i : Nat) : BitVec 32 :=
  word32 (byteAt kdout (4 * i)) (byteAt kdout (4 * i + 1)) (byteAt kdout (4 * i + 2)) (byteAt kdout (4 * i + 3))

/-- Character `j` of the code of `word` with `d` digits (R201). -/
def codeChar (word : BitVec 32) (d j : Nat) : Byte :=
  BitVec.ofNat 8 (0x30 + word.toNat % 10 ^ d / 10 ^ (d - 1 - j) % 10)

/-- The code left-aligned in the 8 bytes of `CODE`, the rest 0x00 (R35, R201). -/
def codeBytes (word : BitVec 32) (d : Nat) : Bytes 8 :=
  Vector.ofFn fun j : Fin 8 => if j.val < d then codeChar word d j.val else 0x00#8

/-! ### The command -/

/-- The first failing check of `DERIVE`: `SEEDV`, `DIGITS`, `INTERVAL`, `TIME` (R192, R240). -/
def deriveFault (s : State) : Option (ErrorKind × Byte) :=
  if s.seedV = false then some (.notReady, 0#8)
  else if digitsLegal s = false then some (.invalidParameter, 1#8)
  else if intervalLegal s = false then some (.invalidParameter, 2#8)
  else if timeLegal s = false then some (.invalidParameter, 3#8)
  else none

/-- The failure writes of `DERIVE`: its five result registers zeroed and `CODEV` cleared (R192). -/
def zeroResults (s : State) : State :=
  { s with timeBcd := rep 8 0#8, subIdx := 0#8, kdOut := rep 16 0#8, codeBin := 0#32, code := rep 8 0#8, codeV := false,
           trace := [] }

/-- The success writes of `DERIVE` (R192). -/
def storeResults (p : Params) (s : State) : State :=
  let T := s.time.toNat
  let I := s.interval.toNat
  let ts := timestampBytes (anchorOf T I)
  let sub := subIndexOf T I
  let kd := deriveKey p s.seed ts (serialSuffix s)
  { s with timeBcd := ts, subIdx := BitVec.ofNat 8 sub, kdOut := kd, codeBin := wordAt kd sub,
           code := codeBytes (wordAt kd sub) s.digits.toNat, codeV := true,
           trace := deriveTrace p s.seed ts (serialSuffix s) }

/-- `DERIVE` over any parameters (R192). -/
def deriveCommand (p : Params) (s : State) : State :=
  let s := { s with codeV := false }
  match deriveFault s with
  | some (e, info) => raise e info (zeroResults s)
  | none => succeed (storeResults p s)

/-- `DERIVE`, opcode 0x04 (R192). -/
def execDerive (s : State) : Host.Outcome State Fault Refusal := .next (deriveCommand Config.params s)

end Sys2Proof.Machine
end

