-- ==== Sys2Proof/Machine/Control.lean ====
section
/-! DEFINITION. The control commands `NOP` and `CLEAR`, and what the engine does with an illegal command byte:
spec/44_control_commands.md. -/

namespace Sys2Proof.Machine

/-- `NOP` (R220). -/
def nopCommand (s : State) : State := succeed { s with trace := [] }

/-- `NOP`, opcode 0x00 (R220). -/
def execNop (s : State) : Host.Outcome State Fault Refusal := .next (nopCommand s)

/-- `CLEAR`: every data register and both buffers zeroed, `SEEDV` and `CODEV` cleared (R221). -/
def clearCommand (s : State) : State :=
  succeed
    { s with
      tokLen := 0#8, ver := 0#8, msgLen := 0#16, digits := 0#8, interval := 0#8, subIdx := 0#8, flags := 0#16,
      checksum := 0#15, time := 0#64, timeBcd := rep 8 0#8, serial := rep 6 0#8, codeBin := 0#32, encSeed := rep 16 0#8,
      seed := rep 16 0#8, digest := rep 16 0#8, kdOut := rep 16 0#8, code := rep 8 0#8, mem := [], seedV := false,
      codeV := false, trace := [] }

/-- `CLEAR`, opcode 0x06 (R221). -/
def execClear (s : State) : Host.Outcome State Fault Refusal := .next (clearCommand s)

/-- An illegal command byte completes with `IllegalCommand` and changes nothing else (R93, R222). -/
def illegalCommand (op : Byte) (s : State) : State := raise .illegalCommand op { s with trace := [] }

end Sys2Proof.Machine
end

