-- ==== Sys2Proof/Machine/KeyedHash.lean ====
section
/-! DEFINITION. KeyedHash (`securidMac`) and the `MAC` command: spec/40_keyed_hash.md. -/

namespace Sys2Proof.Machine

/-- A hash in progress: the running value and the cipher requests made so far (R46, R47). -/
structure HashRun where
  work : B16
  trace : List CipherReq
deriving DecidableEq, Repr

/-- The feedback step `FB(t, w) = Enc(t, w) xor w`: the chunk is the key, the running value is the data (R131). -/
def feedback (p : Params) (t w : B16) : B16 := xor16 (p.aesEnc t w) w

/-- One feedback step of a hash, with the one request it makes (R131). -/
def feed (p : Params) (h : HashRun) (t : B16) : HashRun :=
  { work := feedback p t h.work, trace := h.trace ++ [encReq t h.work] }

/-- The loop of the length block, from index `p - 1` backward: while bits remain, write `L mod 256` and shift right by 8 (R132). -/
def lengthLoop : Nat → Nat → B16 → B16
  | 0, _, pad => pad
  | p + 1, L, pad => if L = 0 then pad else lengthLoop p (L / 256) (setByteAt pad p (BitVec.ofNat 8 (L % 256)))

/-- The length block of a message of `n` bytes: its bit length `8 * n`, filled in from element 15 backward (R106, R132). -/
def lengthBlock (n : Nat) : B16 := lengthLoop 16 (8 * n) (rep 16 0#8)

/-- The number of full chunks of a message of `n` bytes (R133). -/
def fullChunks (n : Nat) : Nat := n / 16

/-- Chunk `i` of a message: `data[16i .. 16i+16)` (R133). -/
def chunk (data : List Byte) (i : Nat) : B16 := bytesOf 16 (slice data (16 * i) (16 * i + 16))

/-- The remainder of 0 to 15 bytes, padded on the right with zero bytes to 16 (R133). -/
def lastChunk (data : List Byte) : B16 :=
  bytesOf 16 (data.drop (16 * fullChunks data.length) ++ List.replicate (16 - data.length % 16) 0#8)

/-- `Mac(data)` with its cipher trace, in the seven steps of R134. -/
def macRun (p : Params) (data : List Byte) : HashRun :=
  let pad := lengthBlock data.length
  let full := fullChunks data.length
  let h := (List.range full).foldl (fun h i => feed p h (chunk data i)) { work := rep 16 0xFF#8, trace := [] }
  let h := feed p h (lastChunk data)
  let h := if full % 2 = 1 then feed p h (rep 16 0#8) else h
  let h := feed p h pad
  feed p h h.work

/-- `Mac(data)` (R130, R134). -/
def macDigest (p : Params) (data : List Byte) : B16 := (macRun p data).work

/-- The cipher trace of `Mac(data)` (R135). -/
def macTrace (p : Params) (data : List Byte) : List CipherReq := (macRun p data).trace

/-- `MAC` over any parameters (R137). -/
def macCommand (p : Params) (s : State) : State :=
  if s.msgLen.toNat > Config.msgMax then
    raise .invalidParameter 4#8 { s with digest := rep 16 0#8, trace := [] }
  else
    succeed { s with digest := macDigest p (message s), trace := macTrace p (message s) }

/-- `MAC`, opcode 0x01 (R137). -/
def execMac (s : State) : Host.Outcome State Fault Refusal := .next (macCommand Config.params s)

end Sys2Proof.Machine
end

