-- ==== Sys2Proof/Machine/SeedResolver.lean ====
section
/-! DEFINITION. SeedResolver: the `RESOLVE` and `LOAD` commands, spec/41_seed_resolver.md. -/

namespace Sys2Proof.Machine

/-- `top15(d) = (d[0] << 7) | (d[1] >> 1)`, the top 15 bits of a digest (R105, R150). -/
def top15 (d : B16) : BitVec 15 := (d[0].setWidth 15 <<< 7) ||| (d[1] >>> 1).setWidth 15

/-- `keyHash = Mac(MAGIC)` (R151 step 1). -/
def keyHash (p : Params) : B16 := macDigest p p.magic.toList

/-- The candidate seed, the encrypted seed decrypted under all 16 bytes of `keyHash` (R151 step 2). -/
def candidateSeed (p : Params) (enc : B16) : B16 := p.aesDec (keyHash p) enc

/-- The checksum computed from the candidate seed (R151 steps 3 and 4). -/
def computedChecksum (p : Params) (enc : B16) : BitVec 15 := top15 (macDigest p (candidateSeed p enc).toList)

/-- `Resolve(enc, chk)`: the seed, or `none` for the failure `IntegrityError` (R151). -/
def resolveSeed (p : Params) (enc : B16) (chk : BitVec 15) : Option B16 :=
  if computedChecksum p enc = chk then some (candidateSeed p enc) else none

/-- The cipher trace of `RESOLVE`, the same whether it succeeds or fails (R153). -/
def resolveTrace (p : Params) (enc : B16) : List CipherReq :=
  macTrace p p.magic.toList ++ [decReq (keyHash p) enc] ++ macTrace p (candidateSeed p enc).toList

/-- `RESOLVE` over any parameters (R152). -/
def resolveCommand (p : Params) (s : State) : State :=
  let s := { s with seedV := false, trace := resolveTrace p s.encSeed }
  match resolveSeed p s.encSeed s.checksum with
  | none => raise .integrityError 0#8 { s with seed := rep 16 0#8, seedV := false }
  | some r => succeed { s with seed := r, seedV := true }

/-- `RESOLVE`, opcode 0x02 (R152). -/
def execResolve (s : State) : Host.Outcome State Fault Refusal := .next (resolveCommand Config.params s)

/-- `LOAD`, the direct-construction path: it checks `DIGITS`, then `INTERVAL`, and marks the host's seed as verified (R158). -/
def loadCommand (s : State) : State :=
  let s := { s with trace := [] }
  if digitsLegal s = false then raise .invalidParameter 1#8 { s with seedV := false }
  else if intervalLegal s = false then raise .invalidParameter 2#8 { s with seedV := false }
  else succeed { s with seedV := true }

/-- `LOAD`, opcode 0x05 (R158). -/
def execLoad (s : State) : Host.Outcome State Fault Refusal := .next (loadCommand s)

end Sys2Proof.Machine
end

