-- ==== Sys2Proof/Machine/TokenDecoder.lean ====
section
/-! DEFINITION. TokenStringDecoder: the `DECODE` command, spec/42_token_decoder.md, with the data formats of
spec/30_encoding.md rules R100 to R105. -/

namespace Sys2Proof.Machine

/-! ### Characters -/

/-- `'0'` to `'9'` (R16, R100). -/
def isDecimalDigit (c : Byte) : Bool := decide (0x30 ≤ c.toNat) && decide (c.toNat ≤ 0x39)

/-- `'0'` to `'9'`, `'A'` to `'F'`, `'a'` to `'f'` (R16, R100). -/
def isHexDigit (c : Byte) : Bool :=
  isDecimalDigit c || (decide (0x41 ≤ c.toNat) && decide (c.toNat ≤ 0x46)) || (decide (0x61 ≤ c.toNat) && decide (c.toNat ≤ 0x66))

/-- `hexval(c)` of a hex digit (R101). The callers check that the character is one; what stands here for any other reaches no state
(log entry 12). -/
def hexVal (c : Byte) : Byte :=
  if c.toNat ≤ 0x39 then c - 0x30#8 else if c.toNat ≤ 0x46 then c - 0x41#8 + 10#8 else c - 0x61#8 + 10#8

/-- `hexpairs(s)`: each pair of characters gives one byte, most significant nibble first (R67 d, R101). -/
def hexPairs : List Byte → List Byte
  | c :: d :: rest => ((hexVal c <<< 4) ||| hexVal d) :: hexPairs rest
  | _ => []

/-- The 3-bit value of a field character, `(c - 0x30) & 0x7` (R102). -/
def fieldValue (c : Byte) : BitVec 3 := (c - 0x30#8).setWidth 3

/-! ### The packed field buffer -/

/-- The loop state of `pack`: the buffer, the cursor and the index of the current output byte (R175). -/
structure PackRun where
  out : Bytes 24
  cursor : Int
  b : Nat
deriving DecidableEq, Repr

/-- One character of the loop of `pack` (R175). -/
def packStep (r : PackRun) (c : Byte) : PackRun :=
  let w : BitVec 16 := (fieldValue c).setWidth 16 <<< r.cursor.toNat
  let out := setByteAt r.out r.b (byteAt r.out r.b ||| (w >>> 8).setWidth 8)
  let out := setByteAt out (r.b + 1) (byteAt out (r.b + 1) ||| w.setWidth 8)
  let cursor := r.cursor - 3
  if cursor < 0 then { out := out, cursor := cursor + 8, b := r.b + 1 } else { out := out, cursor := cursor, b := r.b }

/-- `pack(chars)`: 63 field characters into a 24-byte buffer (R175). -/
def pack (chars : List Byte) : Bytes 24 := (chars.foldl packStep { out := rep 24 0#8, cursor := 13, b := 0 }).out

/-- Buffer bit `i`: bit 0 is the most significant bit of byte 0 (R14). -/
def bufferBit {n : Nat} (buf : Bytes n) (i : Nat) : Bool := (byteAt buf (i / 8)).getLsbD (7 - i % 8)

/-- `extractBits(buf, off, n)`: `n` consecutive buffer bits, folded into a number by repeated shift-left-or-bit (R177). -/
def extractBits {m : Nat} (buf : Bytes m) (off n : Nat) : Nat :=
  (List.range n).foldl (fun r k => r <<< 1 ||| (bufferBit buf (off + k)).toNat) 0

/-- The flags field (R104). -/
def flagsField (buf : Bytes 24) : BitVec 16 := BitVec.ofNat 16 (extractBits buf 128 16)

/-- The embedded seed checksum (R105). -/
def checksumField (buf : Bytes 24) : BitVec 15 := BitVec.ofNat 15 (extractBits buf 159 15)

/-- The encrypted seed, `buf[0..16)` (R103). -/
def encSeedField (buf : Bytes 24) : B16 := bytesOf 16 (slice buf.toList 0 16)

/-- `digits(F) = ((F & (0x07 << 6)) >> 6) + 1` (R180). -/
def digitsOf (f : BitVec 16) : Byte := ((f &&& (0x07#16 <<< 6)) >>> 6).setWidth 8 + 1#8

/-- `interval(F) = 60 if (F & 0x03) = 0, else 30` (R181). -/
def intervalOf (f : BitVec 16) : Byte := if f &&& 0x03#16 = 0#16 then 60#8 else 30#8

/-! ### The command -/

/-- The first failing check of `DECODE`, by its `ERRINFO`: length, then serial characters, then field characters (R172, R240). -/
def tokenFault (p : Params) (s : State) : Option Byte :=
  if s.tokLen.toNat ≠ p.tokenLength then some 1#8
  else if (tokSlice s 1 13).all isHexDigit = false then some 2#8
  else if (tokSlice s 13 76).all isDecimalDigit = false then some 3#8
  else none

/-- The failure writes of `DECODE`: its seven output registers zeroed (R172). -/
def zeroToken (s : State) : State :=
  { s with ver := 0#8, serial := rep 6 0#8, encSeed := rep 16 0#8, flags := 0#16, checksum := 0#15, digits := 0#8,
           interval := 0#8 }

/-- The success writes of `DECODE`: its seven output registers from the token string in `TOKBUF` (R172). -/
def storeToken (s : State) : State :=
  let buf := pack (tokSlice s 13 76)
  { s with ver := tokChar s 0, serial := bytesOf 6 (hexPairs (tokSlice s 1 13)), encSeed := encSeedField buf,
           flags := flagsField buf, checksum := checksumField buf, digits := digitsOf (flagsField buf),
           interval := intervalOf (flagsField buf) }

/-- `DECODE` over any parameters (R172). -/
def decodeCommand (p : Params) (s : State) : State :=
  let s := { s with seed := rep 16 0#8, seedV := false, trace := [] }
  match tokenFault p s with
  | some c => raise .malformedTokenString c (zeroToken s)
  | none => succeed (storeToken s)

/-- `DECODE`, opcode 0x03 (R172). -/
def execDecode (s : State) : Host.Outcome State Fault Refusal := .next (decodeCommand Config.params s)

end Sys2Proof.Machine
end

