-- ==== Sys2Proof/Machine/Dispatch.lean ====
section
/-! DEFINITION. One arm per command of spec/opcode_table.json: the meaning each opcode dispatches to (spec/30_encoding.md rules R91, R92). -/

namespace Sys2Proof.Machine

def exec (i : Instr) (s : State) : Host.Outcome State Fault Refusal :=
  match i with
  | .nop => Sys2Proof.Machine.execNop s
  | .mac => Sys2Proof.Machine.execMac s
  | .resolve => Sys2Proof.Machine.execResolve s
  | .decode => Sys2Proof.Machine.execDecode s
  | .derive => Sys2Proof.Machine.execDerive s
  | .load => Sys2Proof.Machine.execLoad s
  | .clear => Sys2Proof.Machine.execClear s

end Sys2Proof.Machine
end

