-- ==== Sys2Proof/Machine/Flags.lean ====
section
/-! DEFINITION. The flags and the `STATUS` byte: spec/10_state.md rules R41, R43, R44. `DONE`, `SEEDV` and `CODEV` are stored;
`BUSY` and `ERRF` are computed. There are no arithmetic condition codes. -/

namespace Sys2Proof.Machine

/-- `BUSY`: 1 iff `PHASE` is not `IDLE` (R41). -/
def busy (s : State) : Bool :=
  match s.phase with
  | .idle => false
  | .run _ => true

/-- `ERRF`: 1 iff `ERR` is not 0 (R41). -/
def errF (s : State) : Bool := s.err != 0#8

/-- `STATUS`, assembled on each read: bits 4 to 0 are `CODEV`, `SEEDV`, `ERRF`, `DONE`, `BUSY`; bits 7:5 read 0 (R41). -/
def statusByte (s : State) : Byte :=
  0#3 ++ BitVec.ofBool s.codeV ++ BitVec.ofBool s.seedV ++ BitVec.ofBool (errF s) ++ BitVec.ofBool s.done ++ BitVec.ofBool (busy s)

/-- What a host write to any byte of `SEED` does to the flags: `SEEDV` is cleared (R43, R63 c). -/
def seedWritten (s : State) : State := { s with seedV := false }

end Sys2Proof.Machine
end

