-- ==== Sys2Proof/Machine/HostPort.lean ====
section
/-! DEFINITION. The host port: the byte every host address reads as and what a write to it does (spec/20_memory.md rules R62, R63,
R65, R66), and when an access is held (rule R64). -/

namespace Sys2Proof.Machine

/-- Byte `i` of a register, as a host read sees it (R62, R66). `CMD` reads 0x00 (R40). -/
def regByte (s : State) : Reg → Nat → Byte
  | .cmd, _ => 0x00#8
  | .status, _ => statusByte s
  | .err, _ => s.err
  | .errInfo, _ => s.errInfo
  | .tokLen, _ => s.tokLen
  | .ver, _ => s.ver
  | .msgLen, i => numByte s.msgLen (1 - i)
  | .digits, _ => s.digits
  | .interval, _ => s.interval
  | .subIdx, _ => s.subIdx
  | .flags, i => numByte s.flags (1 - i)
  | .checksum, i => numByte s.checksum (1 - i)
  | .time, i => numByte s.time (7 - i)
  | .timeBcd, i => byteAt s.timeBcd i
  | .serial, i => byteAt s.serial i
  | .codeBin, i => numByte s.codeBin (3 - i)
  | .encSeed, i => byteAt s.encSeed i
  | .seed, i => byteAt s.seed i
  | .digest, i => byteAt s.digest i
  | .kdOut, i => byteAt s.kdOut i
  | .code, i => byteAt s.code i
  | .tokBuf, i => memByte s.mem (regBase .tokBuf + i)
  | .msgBuf, i => memByte s.mem (regBase .msgBuf + i)

/-- A host write of `v` to byte `i` of a register (R63): a command is issued by a write to `CMD`; an `RW` byte takes the value, the
byte at 0x00E without its bit 7 (R31); a write to `SEED` also clears `SEEDV` (R43); an `R` register keeps its value. -/
def writeReg (s : State) : Reg → Nat → Byte → State
  | .cmd, _, v => issue v s
  | .tokLen, _, v => { s with tokLen := v }
  | .msgLen, i, v => { s with msgLen := setNumByte s.msgLen (1 - i) v }
  | .digits, _, v => { s with digits := v }
  | .interval, _, v => { s with interval := v }
  | .checksum, i, v => { s with checksum := setNumByte s.checksum (1 - i) v }
  | .time, i, v => { s with time := setNumByte s.time (7 - i) v }
  | .serial, i, v => { s with serial := setByteAt s.serial i v }
  | .encSeed, i, v => { s with encSeed := setByteAt s.encSeed i v }
  | .seed, i, v => seedWritten { s with seed := setByteAt s.seed i v }
  | .tokBuf, i, v => { s with mem := setMemByte s.mem (regBase .tokBuf + i) v }
  | .msgBuf, i, v => { s with mem := setMemByte s.mem (regBase .msgBuf + i) v }
  | .status, _, _ => s
  | .err, _, _ => s
  | .errInfo, _, _ => s
  | .ver, _, _ => s
  | .subIdx, _, _ => s
  | .flags, _, _ => s
  | .timeBcd, _, _ => s
  | .codeBin, _, _ => s
  | .digest, _, _ => s
  | .kdOut, _, _ => s
  | .code, _, _ => s

/-- The value of `MemRead(addr, 1)` where the read is enabled; a reserved address reads 0x00 (R62, R65). -/
def readByte (s : State) (a : Addr) : Byte :=
  match locate a with
  | some (r, i) => regByte s r i
  | none => 0x00#8

/-- The effect of `MemWrite(addr, 1, v)` where the write is enabled; a reserved address ignores it (R63, R65). -/
def writeByte (s : State) (a : Addr) (v : Byte) : State :=
  match locate a with
  | some (r, i) => writeReg s r i v
  | none => s

/-- The host address of `STATUS` (R61). -/
def statusAddr : Addr := 0x001#9

/-- Whether a host access is enabled: every access while `PHASE = IDLE`, and a read of `STATUS` always (R62, R63, R64). -/
def accessEnabled (s : State) (acc : HostAccess) : Bool :=
  match acc with
  | .read a => a == statusAddr || !busy s
  | .write _ _ => !busy s

/-- A host step (R70). A read changes no state (R62): its value goes to the host. -/
def hostStep (s : State) : HostAccess → State
  | .read a => { s with replies := s.replies ++ [readByte s a] }
  | .write a v => writeByte s a v

end Sys2Proof.Machine
end

