-- ==== Sys2Proof/Machine/Engine.lean ====
section
/-! DEFINITION. The steps of the system: the engine step, the host step and reset (spec/20_memory.md rules R64, R70,
spec/70_reset_and_hazards.md rules R260, R261), and which of them a state takes next. -/

namespace Sys2Proof.Machine

/-- The engine step of `RUN(op)`: it dispatches on the command byte (R70, R92, R93). -/
def engineStep (op : Byte) (s : State) : Host.Outcome State Fault Refusal :=
  match decode op with
  | .command i => exec i s
  | .illegalCommand b => .next (illegalCommand b s)

/-- The engine moves if it can: it is enabled iff `PHASE = RUN(op)` (R70) and does nothing while `PHASE = IDLE` (R256; log entry 8). -/
def engineTurn (s : State) : Host.Outcome State Fault Refusal :=
  match s.phase with
  | .run op => engineStep op s
  | .idle => .next s

/-- Reset: the state does not depend on the state before, and a command it meets is abandoned (R260, R261). The accesses still to
come and the replies already given belong to the host and stay (log entries 4, 5). -/
def resetTurn (s : State) : State := { State.reset with script := s.script, replies := s.replies }

/-- The turns still to come replaced: a turn that has been taken is no longer among them. -/
def withTurns (turns : List Turn) (s : State) : State := { s with script := turns }

/-- The next step of the system, as the turns to come say. A host access that is not enabled is held: it stays where it is and
the engine steps first (R64). With no turn to come the engine still finishes a command (R64: its step is always enabled).
Log entry 4. -/
def takeTurn (s : State) : Host.Outcome State Fault Refusal :=
  match s.script with
  | [] => engineTurn s
  | .engine :: rest => engineTurn (withTurns rest s)
  | .reset :: rest => .next (resetTurn (withTurns rest s))
  | .host acc :: rest => if accessEnabled s acc then .next (hostStep (withTurns rest s) acc) else engineTurn s

/-- The command byte put where the engine takes it from, `PHASE`, with the engine moving next. -/
def placeCommand (op : Byte) (s : State) : State := { s with phase := .run op, script := .engine :: s.script }

end Sys2Proof.Machine
end

