-- ==== Sys2Proof/Machine/Step.lean ====
section
/-! DEFINITION. One step of the machine, and a command placed where the next step runs it. -/

namespace Sys2Proof.Machine

/-- One step: one host step, one engine step or one reset (spec/20_memory.md rule R70, spec/70_reset_and_hazards.md rule R260). -/
def step (s : State) : Host.Outcome State Fault Refusal := takeTurn s

/-- The command whose bits are `w` put where the next step runs it: KTOKEN-CORE fetches nothing (spec/10_state.md rule R24), and the
engine takes its command from `PHASE = RUN(op)`. Log entry 6. -/
def State.withFetchWord (s : State) (nbits w : Nat) : State := placeCommand (tableByte nbits w) s

end Sys2Proof.Machine
end

