-- ==== Sys2Proof/Machine/HostScript.lean ====
section
/-! DEFINITION. The host script form: what each statement and pseudo-statement expands to (spec/30_encoding.md rules R97, R98). -/

namespace Sys2Proof.Machine

/-- `MemWrite(addr(REG)+k, 1, v)` as a turn (R97). -/
def writeTurn (r : Reg) (k : Nat) (v : Byte) : Turn := .host (.write (regAddr r k) v)

/-- `MemRead(addr(REG)+k, 1)` as a turn (R97). -/
def readTurn (r : Reg) (k : Nat) : Turn := .host (.read (regAddr r k))

/-- The writes of a list of bytes at ascending addresses from byte `k` of a register on (R98). -/
def writeTurns (r : Reg) : Nat → List Byte → List Turn
  | _, [] => []
  | k, b :: bs => writeTurn r k b :: writeTurns r (k + 1) bs

/-- The reads of `n` bytes at ascending addresses (R98). -/
def readTurns (r : Reg) (n : Nat) : List Turn := (List.range n).map (readTurn r)

/-- The write that issues a command byte (R97). -/
def commandTurn (op : Byte) : Turn := .host (.write 0x000#9 op)

/-- `WAIT` after a command: reads of `STATUS` that see `BUSY = 1`, the engine's step, and the read that sees `BUSY = 0` (R72, R98). -/
def waitTurns (busyReads : Nat) : List Turn :=
  List.replicate busyReads (readTurn .status 0) ++ [.engine, readTurn .status 0]

/-- The turns a host statement expands to (R97, R98). -/
def expand : HostStmt → List Turn
  | .wr r k v => [writeTurn r k v]
  | .rd r k => [readTurn r k]
  | .cmdName i => [commandTurn (encode i)]
  | .cmdByte op => [commandTurn op]
  | .wrs r bs => writeTurns r 0 bs
  | .wrt r text => writeTurns r 0 (text.map fun c => BitVec.ofNat 8 c.toNat)
  | .rds r n => readTurns r n
  | .wait n => waitTurns n
  | .run i n => commandTurn (encode i) :: waitTurns n
  | .expect r bs => readTurns r bs.length

/-- What a statement claims of each byte its reads return: only `EXPECT` makes a claim (R98). -/
def claims : HostStmt → List (Option Byte)
  | .wr _ _ _ => []
  | .rd _ _ => [none]
  | .cmdName _ => []
  | .cmdByte _ => []
  | .wrs _ _ => []
  | .wrt _ _ => []
  | .rds _ n => List.replicate n none
  | .wait n => List.replicate (n + 1) none
  | .run _ n => List.replicate (n + 1) none
  | .expect _ bs => bs.map some

/-- The turns of a host program (R97). -/
def expandAll (prog : List HostStmt) : List Turn := prog.flatMap expand

/-- One claim is met by one reply. -/
def claimMet : Option Byte → Byte → Bool
  | none, _ => true
  | some b, c => b == c

/-- The claims of a host program's `EXPECT` statements hold of the bytes its reads returned (R98). -/
def claimsMet (prog : List HostStmt) (replies : List Byte) : Bool :=
  (prog.flatMap claims).length == replies.length && ((prog.flatMap claims).zip replies).all fun cr => claimMet cr.1 cr.2

end Sys2Proof.Machine
end

