-- ==== Sys2Proof/Safety.lean ====
section
/-! DEFINITION. The terms in which claims about KTOKEN-CORE are made: the invariant of a run, which registers a command writes, which
errors it can raise, how many cipher requests it makes, and plain second readings of the formats and the calendar. -/

namespace Sys2Proof.Machine

/-! ### Errors -/

/-- The pairs (`ERR`, `ERRINFO`) that occur (spec/60_exceptions.md rule R232). -/
def errorPairLegal (err info : Byte) : Bool :=
  match err.toNat with
  | 0 => info == 0#8
  | 1 => decide (1 ≤ info.toNat) && decide (info.toNat ≤ 3)
  | 2 => info == 0#8
  | 3 => decide (1 ≤ info.toNat) && decide (info.toNat ≤ 4)
  | 4 => decide (7 ≤ info.toNat)
  | 5 => info == 0#8
  | _ => false

/-- The errors a command can raise, as pairs (`ERR`, `ERRINFO`) (R233). -/
def errorsOf : Instr → List (Byte × Byte)
  | .nop => []
  | .clear => []
  | .mac => [(3#8, 4#8)]
  | .resolve => [(2#8, 0#8)]
  | .decode => [(1#8, 1#8), (1#8, 2#8), (1#8, 3#8)]
  | .derive => [(5#8, 0#8), (3#8, 1#8), (3#8, 2#8), (3#8, 3#8)]
  | .load => [(3#8, 1#8), (3#8, 2#8)]

/-! ### What a command writes, and its cipher requests -/

/-- The registers and buffers a command writes, on success or on an error; `ERR`, `ERRINFO` and the byte `STATUS` are left out, since
every command writes those (spec/30_encoding.md rule R96, spec/44_control_commands.md rule R224). -/
def writesReg : Instr → Reg → Bool
  | .nop, _ => false
  | .load, _ => false
  | .mac, r => r == .digest
  | .resolve, r => r == .seed
  | .decode, r => [Reg.ver, .serial, .encSeed, .flags, .checksum, .digits, .interval, .seed].contains r
  | .derive, r => [Reg.timeBcd, .subIdx, .kdOut, .codeBin, .code].contains r
  | .clear, r => !([Reg.cmd, .status, .err, .errInfo].contains r)

/-- The registers that tell how a command ended. -/
def isOutcomeReg (r : Reg) : Bool := r == .status || r == .err || r == .errInfo

/-- Cipher requests per command, for a message of `n` bytes and a command that succeeded or not (spec/70_reset_and_hazards.md rule R274). -/
def requestCount (i : Instr) (n : Nat) (ok : Bool) : Nat :=
  match i with
  | .mac => if ok then n / 16 + 3 + n / 16 % 2 else 0
  | .resolve => 9
  | .derive => if ok then 5 else 0
  | .nop => 0
  | .clear => 0
  | .load => 0
  | .decode => 0

/-! ### The invariant -/

/-- The five result registers of `DERIVE` are zero (R192). -/
def resultsZero (s : State) : Prop :=
  s.timeBcd = rep 8 0#8 ∧ s.subIdx = 0#8 ∧ s.kdOut = rep 16 0#8 ∧ s.codeBin = 0#32 ∧ s.code = rep 8 0#8

/-- The five result registers of `DERIVE` fit together: the word is the one that `SUBIDX` selects in `KDOUT` and the code is that word's
(spec/43_code_deriver.md rules R194, R197, R200, R201). -/
def resultsFit (s : State) : Prop :=
  s.subIdx.toNat < 4 ∧ s.codeBin = wordAt s.kdOut s.subIdx.toNat ∧ byteAt s.timeBcd 6 = 0#8 ∧ byteAt s.timeBcd 7 = 0#8 ∧
    ∃ d, 1 ≤ d ∧ d ≤ 8 ∧ s.code = codeBytes s.codeBin d

/-- What every step keeps. -/
structure BlockInv (s : State) : Prop where
  /-- The buffer memory is in canonical form. -/
  memory : Memory.wf s.mem
  /-- Only the pairs of R232 occur. -/
  errorPair : errorPairLegal s.err s.errInfo = true
  /-- An error belongs to a completed command (R42). -/
  errorDone : s.err ≠ 0#8 → s.done = true
  /-- While a command runs, the `CMD` write's zeros stand (R72, R92). -/
  running : busy s = true → s.done = false ∧ s.err = 0#8 ∧ s.errInfo = 0#8
  /-- Without `CODEV` no result is left behind (R203 i, R238). -/
  withoutCode : s.codeV = false → resultsZero s
  /-- With `CODEV` the results are those of one derivation (R41). -/
  withCode : s.codeV = true → resultsFit s

/-! ### The address map, second reading -/

/-- The reserved locations (spec/20_memory.md rule R65). -/
def isReserved (a : Addr) : Bool :=
  decide (a.toNat = 0x00B) || (decide (0x026 ≤ a.toNat) && decide (a.toNat ≤ 0x027))
    || (decide (0x02C ≤ a.toNat) && decide (a.toNat ≤ 0x02F)) || (decide (0x078 ≤ a.toNat) && decide (a.toNat ≤ 0x07F))
    || (decide (0x0E0 ≤ a.toNat) && decide (a.toNat ≤ 0x0FF))

/-- A number read from `n` bytes at ascending host addresses, most significant first (R66). -/
def readNumber (s : State) (r : Reg) : Nat → Nat
  | 0 => 0
  | n + 1 => readNumber s r n * 256 + (readByte s (regAddr r n)).toNat

/-! ### The calendar and the decimal forms, second reading -/

/-- Leap years: divisible by 4, except centuries not divisible by 400 (spec/93_implementation_defined.md G7). -/
def isLeapYear (y : Nat) : Bool := y % 4 == 0 && (y % 100 != 0 || y % 400 == 0)

/-- The number of days of a month of the Gregorian calendar. PRESUMED: the spec names the calendar and prints no month lengths; log
entry 13. -/
def daysInMonth (y m : Nat) : Nat :=
  if m = 2 then (if isLeapYear y then 29 else 28) else if m = 4 ∨ m = 6 ∨ m = 9 ∨ m = 11 then 30 else 31

/-- The day after a date. -/
def nextDate (d : CivilDate) : CivilDate :=
  if d.day < daysInMonth d.year d.month then { d with day := d.day + 1 }
  else if d.month < 12 then { d with month := d.month + 1, day := 1 }
  else { year := d.year + 1, month := 1, day := 1 }

/-- The last `w` decimal characters of a number, with leading zeros. -/
def decimalChars (w n : Nat) : List Byte := (List.range w).map fun j => BitVec.ofNat 8 (0x30 + n / 10 ^ (w - 1 - j) % 10)

/-- The 16 characters `YYYYMMddHHmm0000` of an anchor time (spec/30_encoding.md rule R107, spec/43_code_deriver.md rule R197). -/
def timestampChars (anchor : Nat) : List Byte :=
  let d := civilOfDays (anchor / 86400)
  decimalChars 4 d.year ++ decimalChars 2 d.month ++ decimalChars 2 d.day ++ decimalChars 2 (anchor % 86400 / 3600)
    ++ decimalChars 2 (anchor % 86400 % 3600 / 60) ++ decimalChars 4 0

/-- The decimal representation of a number as character codes. -/
def decimalNumeral (n : Nat) : List Byte := (Nat.toDigits 10 n).map fun c => BitVec.ofNat 8 c.toNat

/-- The last `d` characters of a number's decimal representation, padded on the left with `'0'` to `d` characters (R201). -/
def numeralTail (n d : Nat) : List Byte :=
  let numeral := decimalNumeral n
  (numeral.drop (numeral.length - d)).leftpad d 0x30#8

end Sys2Proof.Machine
end

