-- ==== Sys2Proof/Certificates/Slice0/Obligations.lean ====
section
/-! DEFINITION. The statements about KTOKEN-CORE that the provers settle. Rule numbers are those of spec/. `script`, `replies` and `trace`
are the model's own fields (log entries 4 and 5): the turns to come, the host's replies, the cipher requests of the last command. -/

open Sys2Proof Sys2Proof.Machine

/-! ### Reset, the invariant, the step -/

/-- R48: every register, flag and buffer byte is zero after reset and the block is idle; a `DERIVE` or `LOAD` straight after fails. -/
def Obligations.ResetStateIsZero : Prop :=
  State.reset.phase = .idle ∧ statusByte State.reset = 0#8 ∧ State.reset.done = false ∧ State.reset.seedV = false ∧
  State.reset.codeV = false ∧ State.reset.err = 0#8 ∧ State.reset.errInfo = 0#8 ∧ State.reset.tokLen = 0#8 ∧
  State.reset.ver = 0#8 ∧ State.reset.msgLen = 0#16 ∧ State.reset.digits = 0#8 ∧ State.reset.interval = 0#8 ∧
  State.reset.subIdx = 0#8 ∧ State.reset.flags = 0#16 ∧ State.reset.checksum = 0#15 ∧ State.reset.time = 0#64 ∧
  State.reset.timeBcd = rep 8 0#8 ∧ State.reset.serial = rep 6 0#8 ∧ State.reset.codeBin = 0#32 ∧
  State.reset.encSeed = rep 16 0#8 ∧ State.reset.seed = rep 16 0#8 ∧ State.reset.digest = rep 16 0#8 ∧
  State.reset.kdOut = rep 16 0#8 ∧ State.reset.code = rep 8 0#8 ∧
  (∀ i, i < 96 → tokChar State.reset i = 0#8) ∧ (∀ i, i < 256 → msgByte State.reset i = 0#8) ∧
  (∀ a : Addr, readByte State.reset a = 0#8) ∧
  (∃ t, exec .derive State.reset = .next t ∧ t.err ≠ 0#8) ∧ (∃ t, exec .load State.reset = .next t ∧ t.err ≠ 0#8)

/-- The invariant of Safety.lean holds right after reset. -/
def Obligations.ResetMeetsInvariant : Prop := BlockInv State.reset

/-- Every step, whoever takes it, keeps the invariant: the buffer memory's canonical form (the model's choice, log entry 7), the error
pairs of R232, what `BUSY` implies (R72, R92), and the agreement of `DERIVE`'s results with `CODEV` (R41, R192). -/
def Obligations.StepKeepsInvariant : Prop := ∀ s t : State, BlockInv s → step s = .next t → BlockInv t

/-- The machine never stops: every state has a next state. For a state in `RUN(op)` this rests on R71 and R264, and on a cipher that
answers every request (log entry 11); for a host access that is not held, on R62 and R63; for a reset, on R261. Two of the next states are the MODEL's choice,
not the spec's: in an idle state with no turn to come, or with the engine's turn first, `step` answers the idle step, which changes
nothing but the turns (log entries 4 and 8; R70 enables the engine step in `RUN(op)` only, and R256 says the idle block does nothing). -/
def Obligations.EveryStateHasANextState : Prop := ∀ s : State, ∃ t, step s = .next t

/-! ### Encoding -/

/-- Decoding the byte of a command gives the command. -/
def Obligations.DecodeOfEncodeIsTheCommand : Prop := ∀ i : Instr, i.wf = true → decode (encode i) = .command i

/-- R91 with R93: the opcode map, and every other byte is illegal. -/
def Obligations.OpcodeMapDecides : Prop :=
  decode 0x00#8 = .command .nop ∧ decode 0x01#8 = .command .mac ∧ decode 0x02#8 = .command .resolve ∧
  decode 0x03#8 = .command .decode ∧ decode 0x04#8 = .command .derive ∧ decode 0x05#8 = .command .load ∧
  decode 0x06#8 = .command .clear ∧ ∀ op : Byte, 7 ≤ op.toNat → decode op = .illegalCommand op

/-- A few bytes of the opcode table, read as the table numbers their bits. -/
def Obligations.TableBytesDecode : Prop :=
  decodeTableWord 8 0x00 = some .nop ∧ decodeTableWord 8 0x03 = some .decode ∧ decodeTableWord 8 0x06 = some .clear ∧
  decodeTableWord 8 0x07 = none

/-! ### Steps -/

/-- A step runs the decoded command: when `PHASE = RUN(op)`, `op` decodes to `i` and the turn is the engine's (no turn to come, the
engine's own turn, or a host access that is held), the step is `exec i`; only the engine's own turn is used up. -/
def Obligations.StepRunsDecodedCommand : Prop :=
  ∀ (s : State) (op : Byte) (i : Instr), s.phase = .run op → decode op = .command i → i.wf = true →
    (s.script = [] → step s = exec i s) ∧
    (∀ rest, s.script = .engine :: rest → step s = exec i (withTurns rest s)) ∧
    (∀ acc rest, s.script = .host acc :: rest → acc ≠ .read statusAddr → step s = exec i s)

/-- A command placed by `withFetchWord` is what the very next step runs (the model's convention, log entry 6). -/
def Obligations.PlacedCommandIsNextStep : Prop :=
  ∀ (s : State) (nbits w : Nat) (i : Instr), decodeTableWord nbits w = some i →
    step (s.withFetchWord nbits w) = exec i { s with phase := .run (encode i) }

/-- R92: a write to `CMD` while idle issues the command and changes nothing else; the engine step dispatches on it; a write while a
command runs is held. -/
def Obligations.CommandWriteIssues : Prop :=
  (∀ (s : State) (op : Byte) (rest : List Turn), s.phase = .idle → s.script = .host (.write 0x000#9 op) :: rest →
    step s = .next { s with script := rest, phase := .run op, done := false, err := 0#8, errInfo := 0#8 }) ∧
  (∀ (s : State) (op : Byte), s.phase = .run op →
    (s.script = [] → step s = engineStep op s) ∧
    (∀ rest, s.script = .engine :: rest → step s = engineStep op (withTurns rest s))) ∧
  (∀ (s : State) (op : Byte),
    (∀ i, decode op = .command i → engineStep op s = exec i s) ∧
    (7 ≤ op.toNat →
      engineStep op s = .next { s with phase := .idle, done := true, err := 4#8, errInfo := op, trace := [] })) ∧
  (∀ (s : State) (op op' : Byte) (rest : List Turn), s.phase = .run op → s.script = .host (.write 0x000#9 op') :: rest →
    step s = engineStep op s ∧ ∃ t, step s = .next t ∧ t.phase = .idle ∧ t.script = s.script)

/-- R64: while a command runs, a host access other than a read of `STATUS` waits: the step is the engine's, which is enabled and sets
`PHASE <- IDLE`; the access is neither dropped nor answered by it, and the step after it is the access, against the state that the command
left. -/
def Obligations.HeldAccessFollowsCommand : Prop :=
  ∀ (s : State) (op : Byte) (acc : HostAccess) (rest : List Turn), s.phase = .run op → s.script = .host acc :: rest →
    acc ≠ .read statusAddr →
    ∃ t, engineStep op s = .next t ∧ step s = .next t ∧ t.phase = .idle ∧ t.script = s.script ∧ t.replies = s.replies ∧
      step t = .next (hostStep (withTurns rest t) acc)

/-- R72: after an accepted `CMD` write any number `n` of `STATUS` reads are answered before the engine step, each with `BUSY = 1`, `DONE =
0`, `ERRF = 0` and `SEEDV`, `CODEV` as before the command; the read after the engine step sees `BUSY = 0`, `DONE = 1`. -/
def Obligations.PollingSeesBusyThenDone : Prop :=
  ∀ (s : State) (op : Byte) (n : Nat) (rest : List Turn), s.phase = .idle →
    s.script = .host (.write 0x000#9 op) ::
      (List.replicate n (.host (.read statusAddr)) ++ .engine :: .host (.read statusAddr) :: rest) →
    ∃ (t : State) (b : Byte), Host.Core.run Sys2Proof.core (n + 3) s = .next t ∧
      t.replies = s.replies ++
        List.replicate n (0#3 ++ BitVec.ofBool s.codeV ++ BitVec.ofBool s.seedV ++ 0b001#3) ++ [b] ∧
      b.getLsbD 0 = false ∧ b.getLsbD 1 = true ∧ t.script = rest ∧ t.phase = .idle

/-- R261: reset while a command runs (or at any time) abandons it: the state is the reset state, and the host's next access proceeds
against the reset state. -/
def Obligations.ResetAbandonsCommand : Prop :=
  ∀ (s : State) (rest : List Turn), s.script = .reset :: rest →
    step s = .next { State.reset with script := rest, replies := s.replies } ∧
    ∀ (acc : HostAccess) (rest' : List Turn), rest = .host acc :: rest' →
      Host.Core.run Sys2Proof.core 2 s = .next (hostStep { State.reset with script := rest', replies := s.replies } acc)

/-! ### The commands: what each does -/

/-- R220: `NOP`. -/
def Obligations.NopResult : Prop :=
  ∀ s : State, exec .nop s = .next { s with phase := .idle, done := true, err := 0#8, errInfo := 0#8, trace := [] }

/-- R221: after `CLEAR` the state is the reset state except that `DONE = 1`; `STATUS` reads 0x02; `CLEAR` twice is the same as once;
`DERIVE` after it fails with `NotReady`. -/
def Obligations.ClearResult : Prop :=
  ∀ s : State, ∃ t, t = { State.reset with done := true, script := s.script, replies := s.replies } ∧ exec .clear s = .next t ∧
    statusByte t = 0x02#8 ∧ exec .clear t = .next t ∧ ∃ u, exec .derive t = .next u ∧ u.err = 5#8 ∧ u.errInfo = 0#8

/-- R137: `MAC`, for every state: above 256 bytes the error with `DIGEST` zeroed and no request, otherwise `DIGEST` is the hash of
`MSGBUF[0..MSGLEN)`; nothing else changes. -/
def Obligations.MacResult : Prop :=
  ∀ s : State,
    (256 < s.msgLen.toNat →
      exec .mac s = .next
        { s with phase := .idle, done := true, err := 3#8, errInfo := 4#8, digest := rep 16 0#8, trace := [] }) ∧
    (s.msgLen.toNat ≤ 256 →
      exec .mac s = .next
        { s with phase := .idle, done := true, err := 0#8, errInfo := 0#8,
                 digest := macDigest Config.params ((List.range s.msgLen.toNat).map fun i => memByte s.mem (0x100 + i)),
                 trace := macTrace Config.params ((List.range s.msgLen.toNat).map fun i => memByte s.mem (0x100 + i)) })

/-- R152: `RESOLVE`, for every state. -/
def Obligations.ResolveResult : Prop :=
  ∀ s : State,
    (top15 (macDigest Config.params
        (Config.aesDec (macDigest Config.params Config.magic.toList) s.encSeed).toList) = s.checksum →
      exec .resolve s = .next
        { s with phase := .idle, done := true, err := 0#8, errInfo := 0#8, seedV := true,
                 seed := Config.aesDec (macDigest Config.params Config.magic.toList) s.encSeed,
                 trace := resolveTrace Config.params s.encSeed }) ∧
    (top15 (macDigest Config.params
        (Config.aesDec (macDigest Config.params Config.magic.toList) s.encSeed).toList) ≠ s.checksum →
      exec .resolve s = .next
        { s with phase := .idle, done := true, err := 2#8, errInfo := 0#8, seedV := false, seed := rep 16 0#8,
                 trace := resolveTrace Config.params s.encSeed })

/-- R158: `LOAD`, for every state: `DIGITS` is checked first, then `INTERVAL`. -/
def Obligations.LoadResult : Prop :=
  ∀ s : State,
    (s.digits.toNat < 1 ∨ 8 < s.digits.toNat →
      exec .load s = .next
        { s with phase := .idle, done := true, err := 3#8, errInfo := 1#8, seedV := false, trace := [] }) ∧
    (1 ≤ s.digits.toNat → s.digits.toNat ≤ 8 → s.interval.toNat ≠ 30 → s.interval.toNat ≠ 60 →
      exec .load s = .next
        { s with phase := .idle, done := true, err := 3#8, errInfo := 2#8, seedV := false, trace := [] }) ∧
    (1 ≤ s.digits.toNat → s.digits.toNat ≤ 8 → (s.interval.toNat = 30 ∨ s.interval.toNat = 60) →
      exec .load s = .next
        { s with phase := .idle, done := true, err := 0#8, errInfo := 0#8, seedV := true, trace := [] })

/-- R172: `DECODE`, for every state: the three checks in their order, the failure writes, the success writes. -/
def Obligations.DecodeResult : Prop :=
  ∀ s : State,
    let failed (c : Byte) : State :=
      { s with phase := .idle, done := true, err := 1#8, errInfo := c, seed := rep 16 0#8, seedV := false, ver := 0#8,
               serial := rep 6 0#8, encSeed := rep 16 0#8, flags := 0#16, checksum := 0#15, digits := 0#8, interval := 0#8,
               trace := [] }
    let lengthOk := s.tokLen.toNat = 76 + Config.trailer.val
    let serialOk := ∀ i, 1 ≤ i → i ≤ 12 → isHexDigit (tokChar s i) = true
    let fieldOk := ∀ i, 13 ≤ i → i ≤ 75 → 0x30 ≤ (tokChar s i).toNat ∧ (tokChar s i).toNat ≤ 0x39
    let buf := pack ((List.range 63).map fun k => tokChar s (13 + k))
    (¬ lengthOk → exec .decode s = .next (failed 1#8)) ∧
    (lengthOk → ¬ serialOk → exec .decode s = .next (failed 2#8)) ∧
    (lengthOk → serialOk → ¬ fieldOk → exec .decode s = .next (failed 3#8)) ∧
    (lengthOk → serialOk → fieldOk →
      exec .decode s = .next
        { s with phase := .idle, done := true, err := 0#8, errInfo := 0#8, seed := rep 16 0#8, seedV := false,
                 ver := tokChar s 0,
                 serial := bytesOf 6 (hexPairs ((List.range 12).map fun k => tokChar s (1 + k))),
                 encSeed := bytesOf 16 (buf.toList.take 16),
                 flags := BitVec.ofNat 16 (extractBits buf 128 16),
                 checksum := BitVec.ofNat 15 (extractBits buf 159 15),
                 digits := digitsOf (BitVec.ofNat 16 (extractBits buf 128 16)),
                 interval := intervalOf (BitVec.ofNat 16 (extractBits buf 128 16)),
                 trace := [] })

/-- R192: `DERIVE`, for every state: the four checks in their order, the failure writes, the success writes. -/
def Obligations.DeriveResult : Prop :=
  ∀ s : State,
    let failed (e c : Byte) : State :=
      { s with phase := .idle, done := true, err := e, errInfo := c, timeBcd := rep 8 0#8, subIdx := 0#8, kdOut := rep 16 0#8,
               codeBin := 0#32, code := rep 8 0#8, codeV := false, trace := [] }
    let digitsOk := 1 ≤ s.digits.toNat ∧ s.digits.toNat ≤ 8
    let intervalOk := s.interval.toNat = 30 ∨ s.interval.toNat = 60
    let timeOk := s.time.toNat ≤ 253402300799
    let ts := timestampBytes (anchorOf s.time.toNat s.interval.toNat)
    let sub := subIndexOf s.time.toNat s.interval.toNat
    let suffix := (s.serial.toList.drop 2).take 4
    let kd := deriveKey Config.params s.seed ts suffix
    (s.seedV = false → exec .derive s = .next (failed 5#8 0#8)) ∧
    (s.seedV = true → ¬ digitsOk → exec .derive s = .next (failed 3#8 1#8)) ∧
    (s.seedV = true → digitsOk → ¬ intervalOk → exec .derive s = .next (failed 3#8 2#8)) ∧
    (s.seedV = true → digitsOk → intervalOk → ¬ timeOk → exec .derive s = .next (failed 3#8 3#8)) ∧
    (s.seedV = true → digitsOk → intervalOk → timeOk →
      exec .derive s = .next
        { s with phase := .idle, done := true, err := 0#8, errInfo := 0#8, timeBcd := ts, subIdx := BitVec.ofNat 8 sub,
                 kdOut := kd, codeBin := wordAt kd sub, code := codeBytes (wordAt kd sub) s.digits.toNat, codeV := true,
                 trace := deriveTrace Config.params s.seed ts suffix })

/-- R93, R222: an illegal command byte, for every state: `ERR`, `ERRINFO`, `DONE` and `PHASE` change and nothing else. -/
def Obligations.IllegalCommandResult : Prop :=
  ∀ (s : State) (op : Byte), 7 ≤ op.toNat →
    ∃ t, t = { s with phase := .idle, done := true, err := 4#8, errInfo := op, trace := [] } ∧ engineStep op s = .next t ∧
      (s.phase = .run op → s.script = [] → step s = .next t) ∧
      statusByte t = 0x06#8 ||| ((BitVec.ofBool s.seedV).setWidth 8 <<< 3) ||| ((BitVec.ofBool s.codeV).setWidth 8 <<< 4)

/-! ### KeyedHash -/

/-- R138 (f): bytes of `MSGBUF` at and beyond `MSGLEN`, and every other register, have no influence on `MAC`. -/
def Obligations.MacIgnoresStaleBytes : Prop :=
  ∀ s s' t t' : State, s.msgLen = s'.msgLen → (∀ i, i < s.msgLen.toNat → msgByte s i = msgByte s' i) →
    exec .mac s = .next t → exec .mac s' = .next t' →
    t.digest = t'.digest ∧ t.err = t'.err ∧ t.errInfo = t'.errInfo ∧ t.trace = t'.trace

/-- R134, R135: the cipher trace of `Mac(data)` says all of the algorithm: its length, its direction, its keys in order, the first data of
sixteen 0xFF, each later data the feedback of the request before it, the last key equal to the last data, and the digest their
feedback. -/
def Obligations.MacChainsFeedbackSteps : Prop :=
  ∀ (p : Params) (data : List Byte),
    let n := data.length
    let full := n / 16
    let tr := macTrace p data
    tr.length = full + 3 + full % 2 ∧ (∀ r, r ∈ tr → r.dir = .enc) ∧
    (∃ w : B16,
      tr.map (fun r => r.key) =
        (List.range full).map (fun i => bytesOf 16 ((data.drop (16 * i)).take 16)) ++
          [bytesOf 16 (data.drop (16 * full))] ++ (if full % 2 = 1 then [rep 16 0#8] else []) ++ [lengthBlock n, w] ∧
      tr.getLast? = some ⟨.enc, w, w⟩ ∧ macDigest p data = xor16 (p.aesEnc w w) w) ∧
    (tr.head?.map fun r => r.din) = some (rep 16 0xFF#8) ∧
    (∀ (j : Nat) (r r' : CipherReq), tr[j]? = some r → tr[j + 1]? = some r' → r'.din = xor16 (p.aesEnc r.key r.din) r.din)

/-- R106: the length block is the bit length, most significant byte first and right-aligned; up to 256 bytes of message only its last two
bytes can be non-zero. -/
def Obligations.LengthBlockIsBitLength : Prop :=
  (∀ n i, i < 16 → (byteAt (lengthBlock n) i).toNat = 8 * n / 256 ^ (15 - i) % 256) ∧
  (∀ n i, n ≤ 256 → i < 14 → byteAt (lengthBlock n) i = 0#8) ∧ lengthBlock 0 = rep 16 0#8

/-! ### SeedResolver -/

/-- R153: the nine requests of `RESOLVE`, the same whether it succeeds or fails: three of `Mac(MAGIC)`, the decryption, five of
`Mac(cand)`. -/
def Obligations.ResolveTraceIsNineRequests : Prop :=
  (∀ (p : Params) (enc : B16), ∃ w2 w8 d1 d5 d6 d7 : B16,
    resolveTrace p enc =
      [⟨.enc, bytesOf 16 (p.magic.toList ++ List.replicate 10 0#8), rep 16 0xFF#8⟩,
       ⟨.enc, setByteAt (rep 16 0#8) 15 0x30#8, d1⟩, ⟨.enc, w2, w2⟩,
       ⟨.dec, macDigest p p.magic.toList, enc⟩,
       ⟨.enc, p.aesDec (macDigest p p.magic.toList) enc, rep 16 0xFF#8⟩,
       ⟨.enc, rep 16 0#8, d5⟩, ⟨.enc, rep 16 0#8, d6⟩,
       ⟨.enc, setByteAt (rep 16 0#8) 15 0x80#8, d7⟩, ⟨.enc, w8, w8⟩]) ∧
  (∀ s t : State, exec .resolve s = .next t → t.trace = resolveTrace Config.params s.encSeed)

/-- R155: the round trip, for every cipher whose decryption inverts its encryption. -/
def Obligations.ResolveInvertsEncoding : Prop :=
  ∀ p : Params, p.Inverse → ∀ (seed : B16) (s : State),
    s.encSeed = p.aesEnc (macDigest p p.magic.toList) seed → s.checksum = top15 (macDigest p seed.toList) →
    resolveSeed p s.encSeed s.checksum = some seed ∧ (resolveCommand p s).seed = seed ∧ (resolveCommand p s).seedV = true ∧
      (resolveCommand p s).err = 0#8

/-- R154 (d): any other checksum turns a success of `RESOLVE` into `IntegrityError` with `SEED` zero and `SEEDV` clear. -/
def Obligations.ChangedChecksumFailsResolve : Prop :=
  ∀ (s t t' : State) (c : BitVec 15), exec .resolve s = .next t → t.err = 0#8 → c ≠ s.checksum →
    exec .resolve { s with checksum := c } = .next t' →
    t'.err = 2#8 ∧ t'.errInfo = 0#8 ∧ t'.seed = rep 16 0#8 ∧ t'.seedV = false

/-! ### TokenStringDecoder -/

/-- R176: field character `k` lands at buffer bits `3k` to `3k+2`, most significant bit of its value first, and the last three buffer bits
are 0. -/
def Obligations.PackPlacesThreeBitsPerCharacter : Prop :=
  ∀ chars : List Byte, chars.length = 63 →
    (∀ (k : Nat) (c : Byte), chars[k]? = some c → ∀ j, j < 3 →
      bufferBit (pack chars) (3 * k + j) = (fieldValue c).getLsbD (2 - j)) ∧
    (∀ b, 189 ≤ b → b < 192 → bufferBit (pack chars) b = false)

/-- R177: `extractBits` reads its range most significant bit first; its result is below `2^n`, and 0 for `n = 0`. -/
def Obligations.ExtractBitsReadsRange : Prop :=
  ∀ (m : Nat) (buf : Bytes m) (off n : Nat),
    extractBits buf off n < 2 ^ n ∧ (∀ i, i < n → (extractBits buf off n).testBit i = bufferBit buf (off + (n - 1 - i))) ∧
    extractBits buf off 0 = 0

/-- R105, R150: the embedded and the computed checksum, by their formulas, both below 32768. -/
def Obligations.ChecksumFormulas : Prop :=
  (∀ buf : Bytes 24,
    extractBits buf 159 15 =
      ((byteAt buf 19).toNat % 2) * 2 ^ 14 + (byteAt buf 20).toNat * 2 ^ 6 + (byteAt buf 21).toNat / 4 ∧
    extractBits buf 159 15 ≤ 32767) ∧
  (∀ d : B16,
    (top15 d).toNat = (byteAt d 0).toNat * 2 ^ 7 + (byteAt d 1).toNat / 2 ∧ (top15 d).toNat = extractBits d 0 15 ∧
    (top15 d).toNat ≤ 32767)

/-- R180, R181: the flag decoders, and that their results are always legal. -/
def Obligations.FlagDecodersAreLegal : Prop :=
  ∀ f : BitVec 16,
    (digitsOf f).toNat = f.toNat / 2 ^ 6 % 8 + 1 ∧ 1 ≤ (digitsOf f).toNat ∧ (digitsOf f).toNat ≤ 8 ∧
    (f.toNat % 4 = 0 → intervalOf f = 60#8) ∧ (f.toNat % 4 ≠ 0 → intervalOf f = 30#8)

/-- R178 (f): buffer bits [144,159) and [174,189) influence no output of `DECODE`: two accepted tokens that pack alike elsewhere give the same
`ENCSEED`, `FLAGS`, `CHECKSUM`, `DIGITS` and `INTERVAL`. -/
def Obligations.DecodeIgnoresUnusedBits : Prop :=
  ∀ s s' t t' : State, exec .decode s = .next t → exec .decode s' = .next t' → t.err = 0#8 → t'.err = 0#8 →
    (∀ b, b < 144 ∨ (159 ≤ b ∧ b < 174) →
      bufferBit (pack (tokSlice s 13 76)) b = bufferBit (pack (tokSlice s' 13 76)) b) →
    t.encSeed = t'.encSeed ∧ t.flags = t'.flags ∧ t.checksum = t'.checksum ∧ t.digits = t'.digits ∧ t.interval = t'.interval

/-! ### CodeDeriver -/

/-- R194: the window arithmetic. -/
def Obligations.WindowArithmetic : Prop :=
  ∀ T I : Nat, I = 30 ∨ I = 60 →
    anchorOf T I + T % (4 * I) = T ∧ anchorOf T I % (4 * I) = 0 ∧ anchorOf T I % 120 = 0 ∧ anchorOf T I % 60 = 0 ∧
    subIndexOf T I < 4 ∧ subIndexOf T I * I ≤ T % (4 * I) ∧ T % (4 * I) < subIndexOf T I * I + I

/-- R202 (b), (c): `DERIVE` at two times of one bucket gives the same results; at two times of one superwindow it gives the same `KDOUT`
and `TIMEBCD`. -/
def Obligations.SameWindowSameResults : Prop :=
  ∀ (s t t' : State) (T' : BitVec 64), exec .derive s = .next t → exec .derive { s with time := T' } = .next t' →
    t.err = 0#8 → t'.err = 0#8 →
    (s.time.toNat / s.interval.toNat = T'.toNat / s.interval.toNat →
      t.timeBcd = t'.timeBcd ∧ t.subIdx = t'.subIdx ∧ t.kdOut = t'.kdOut ∧ t.codeBin = t'.codeBin ∧ t.code = t'.code) ∧
    (s.time.toNat / (4 * s.interval.toNat) = T'.toNat / (4 * s.interval.toNat) →
      t.timeBcd = t'.timeBcd ∧ t.kdOut = t'.kdOut)

/-- R202 (a), R203 (h): what `DERIVE` gives depends on `SEEDV`, `SEED`, `SERIAL[2..6)`, `DIGITS`, `INTERVAL` and `TIME` only. -/
def Obligations.DeriveDependsOnItsOperands : Prop :=
  ∀ s s' t t' : State, s.seedV = s'.seedV → s.seed = s'.seed → (∀ k, 2 ≤ k → k < 6 → byteAt s.serial k = byteAt s'.serial k) →
    s.digits = s'.digits → s.interval = s'.interval → s.time = s'.time →
    exec .derive s = .next t → exec .derive s' = .next t' →
    t.timeBcd = t'.timeBcd ∧ t.subIdx = t'.subIdx ∧ t.kdOut = t'.kdOut ∧ t.codeBin = t'.codeBin ∧ t.code = t'.code ∧
      t.codeV = t'.codeV ∧ t.err = t'.err ∧ t.errInfo = t'.errInfo ∧ t.trace = t'.trace

/-- R202 (d), (e): the shape of a code; a code of `d` digits is the last `d` characters of the code of 8 digits. -/
def Obligations.CodeShape : Prop :=
  ∀ (w : BitVec 32) (d : Nat), 1 ≤ d → d ≤ 8 →
    (∀ j, j < d → 0x30 ≤ (byteAt (codeBytes w d) j).toNat ∧ (byteAt (codeBytes w d) j).toNat ≤ 0x39) ∧
    (∀ j, d ≤ j → j < 8 → byteAt (codeBytes w d) j = 0#8) ∧
    (∀ j, j < d → byteAt (codeBytes w d) j = byteAt (codeBytes w 8) (8 - d + j))

/-- R201: the code is the last `d` characters of the word's decimal representation, padded on the left with `'0'`. -/
def Obligations.CodeIsDecimalTail : Prop :=
  ∀ (w : BitVec 32) (d : Nat), 1 ≤ d → d ≤ 8 → (codeBytes w d).toList.take d = numeralTail w.toNat d

/-- R195: the conversion is the proleptic Gregorian calendar: day 0 is 1970-01-01 and each next day number is the next date. The month
lengths behind `nextDate` are presumed, not the spec's (log entry 13). -/
def Obligations.CalendarIsGregorian : Prop :=
  civilOfDays 0 = { year := 1970, month := 1, day := 1 } ∧ ∀ n : Nat, civilOfDays (n + 1) = nextDate (civilOfDays n)

/-- R195: for a time up to `TIME_MAX` the year has four digits, 1970 to 9999, and the other fields are in range. -/
def Obligations.CalendarRange : Prop :=
  ∀ T : Nat, T ≤ 253402300799 →
    1970 ≤ (civilOfDays (T / 86400)).year ∧ (civilOfDays (T / 86400)).year ≤ 9999 ∧ 1 ≤ (civilOfDays (T / 86400)).month ∧
    (civilOfDays (T / 86400)).month ≤ 12 ∧ 1 ≤ (civilOfDays (T / 86400)).day ∧ (civilOfDays (T / 86400)).day ≤ 31

/-- R196: `bcd(n)` is the hex-pair decoding of the two decimal characters of `n`. -/
def Obligations.BcdIsHexPair : Prop :=
  (∀ n, n < 100 → [bcd n] = hexPairs [BitVec.ofNat 8 (0x30 + n / 10), BitVec.ofNat 8 (0x30 + n % 10)] ∧
    (bcd n).toNat = n / 10 * 16 + n % 10) ∧ bcd 20 = 0x20#8

/-- R197: the timestamp bytes are the hex-pair decoding of `YYYYMMddHHmm0000`, each field zero-padded to its width. -/
def Obligations.TimestampIsHexPairsOfDate : Prop :=
  ∀ T I : Nat, T ≤ 253402300799 → I = 30 ∨ I = 60 →
    (timestampBytes (anchorOf T I)).toList = hexPairs (timestampChars (anchorOf T I)) ∧
    (∃ Y M D HH mm : Nat, civilOfDays (anchorOf T I / 86400) = { year := Y, month := M, day := D } ∧
      HH = anchorOf T I % 86400 / 3600 ∧ mm = anchorOf T I % 86400 % 3600 / 60 ∧
      (timestampBytes (anchorOf T I)).toList =
        [bcd (Y / 100), bcd (Y % 100), bcd M, bcd D, bcd HH, bcd mm, 0x00#8, 0x00#8])

/-- R108, R198: the derivation input block, byte by byte. -/
def Obligations.DerivationBlockLayout : Prop :=
  ∀ (ts : Bytes 8) (suffix : List Byte) (n : Nat), suffix.length = 4 → n ∈ [2, 3, 4, 5, 8] →
    (∀ i, i < n → byteAt (deriveBlock ts suffix n) i = byteAt ts i) ∧
    (∀ i, n ≤ i → i < 8 → byteAt (deriveBlock ts suffix n) i = 0xAA#8) ∧
    (∀ i, i < 4 → some (byteAt (deriveBlock ts suffix n) (8 + i)) = suffix[i]?) ∧
    (∀ i, 12 ≤ i → i < 16 → byteAt (deriveBlock ts suffix n) i = 0xBB#8)

/-- R199: the five rounds: five encryption requests with the blocks of lengths 2, 3, 4, 5, 8, the first key the seed, each next key the
reply to the request before, and the output the last reply. -/
def Obligations.DerivationChainOfFiveRounds : Prop :=
  ∀ (p : Params) (seed : B16) (ts : Bytes 8) (suffix : List Byte),
    let k1 := p.aesEnc seed (deriveBlock ts suffix 2)
    let k2 := p.aesEnc k1 (deriveBlock ts suffix 3)
    let k3 := p.aesEnc k2 (deriveBlock ts suffix 4)
    let k4 := p.aesEnc k3 (deriveBlock ts suffix 5)
    deriveKey p seed ts suffix = p.aesEnc k4 (deriveBlock ts suffix 8) ∧
    deriveTrace p seed ts suffix =
      [⟨.enc, seed, deriveBlock ts suffix 2⟩, ⟨.enc, k1, deriveBlock ts suffix 3⟩, ⟨.enc, k2, deriveBlock ts suffix 4⟩,
       ⟨.enc, k3, deriveBlock ts suffix 5⟩, ⟨.enc, k4, deriveBlock ts suffix 8⟩]

/-- R200: the selected word is the 4-byte slice at offset `4 * i`, most significant byte first. -/
def Obligations.WordIsBigEndianSlice : Prop :=
  ∀ (kd : B16) (i : Nat), i < 4 →
    (wordAt kd i).toNat =
      (byteAt kd (4 * i)).toNat * 2 ^ 24 + (byteAt kd (4 * i + 1)).toNat * 2 ^ 16 + (byteAt kd (4 * i + 2)).toNat * 2 ^ 8 +
        (byteAt kd (4 * i + 3)).toNat

/-! ### Every command -/

/-- R274: the number of cipher requests of each command, on success and on error; the one decryption is `RESOLVE`'s. -/
def Obligations.CipherRequestCounts : Prop :=
  (∀ (i : Instr) (s t : State), exec i s = .next t →
    t.trace.length = requestCount i s.msgLen.toNat (t.err == 0#8) ∧
    (t.trace.filter fun r => r.dir == .dec).length = if i = .resolve then 1 else 0) ∧
  (∀ (s t : State) (op : Byte), 7 ≤ op.toNat → engineStep op s = .next t → t.trace.length = 0)

/-- R233: which command can raise what. -/
def Obligations.ErrorsOfEachCommand : Prop :=
  (∀ (i : Instr) (s t : State), exec i s = .next t →
    (t.err = 0#8 ∧ t.errInfo = 0#8) ∨ (t.err, t.errInfo) ∈ errorsOf i) ∧
  (∀ (s t : State) (op : Byte), 7 ≤ op.toNat → engineStep op s = .next t → t.err = 4#8 ∧ t.errInfo = op)

/-- R238: fail closed: a failing command writes zeros to every output register it would have written, and the validity flags are clear; a
failing `LOAD` leaves `SEED` and clears `SEEDV`; an illegal command changes nothing of it. -/
def Obligations.FailingCommandsFailClosed : Prop :=
  (∀ s t : State, exec .decode s = .next t → t.err ≠ 0#8 →
    t.ver = 0#8 ∧ t.serial = rep 6 0#8 ∧ t.encSeed = rep 16 0#8 ∧ t.flags = 0#16 ∧ t.checksum = 0#15 ∧ t.digits = 0#8 ∧
      t.interval = 0#8 ∧ t.seed = rep 16 0#8 ∧ t.seedV = false) ∧
  (∀ s t : State, exec .resolve s = .next t → t.err ≠ 0#8 → t.seed = rep 16 0#8 ∧ t.seedV = false) ∧
  (∀ s t : State, exec .derive s = .next t → t.err ≠ 0#8 →
    t.timeBcd = rep 8 0#8 ∧ t.subIdx = 0#8 ∧ t.kdOut = rep 16 0#8 ∧ t.codeBin = 0#32 ∧ t.code = rep 8 0#8 ∧
      t.codeV = false) ∧
  (∀ s t : State, exec .mac s = .next t → t.err ≠ 0#8 → t.digest = rep 16 0#8) ∧
  (∀ s t : State, exec .load s = .next t → t.err ≠ 0#8 → t.seed = s.seed ∧ t.seedV = false) ∧
  (∀ (s t : State) (op : Byte), 7 ≤ op.toNat → engineStep op s = .next t →
    t.seedV = s.seedV ∧ t.codeV = s.codeV ∧ ∀ r k, isOutcomeReg r = false → regByte t r k = regByte s r k)

/-- R224: the frame rule. A command writes `ERR`, `ERRINFO`, `DONE`, `PHASE` and the registers of its own rule (`writesReg`); every other
register, flag, buffer byte and host address reads as before. -/
def Obligations.CommandsWriteOnlyTheirRegisters : Prop :=
  ∀ (i : Instr) (s t : State), exec i s = .next t →
    t.phase = .idle ∧ t.done = true ∧ t.script = s.script ∧ t.replies = s.replies ∧
    (∀ r k, writesReg i r = false → isOutcomeReg r = false → regByte t r k = regByte s r k) ∧
    (∀ a : Addr, (∀ r k, locate a = some (r, k) → writesReg i r = false ∧ isOutcomeReg r = false) →
      readByte t a = readByte s a) ∧
    (i ∈ [Instr.nop, .mac, .derive] → t.seedV = s.seedV) ∧
    (i ∈ [Instr.nop, .mac, .resolve, .decode, .load] → t.codeV = s.codeV) ∧
    (i ≠ .clear → t.mem = s.mem ∧ t.time = s.time ∧ t.tokLen = s.tokLen ∧ t.msgLen = s.msgLen) ∧
    (i ≠ .clear → i ≠ .mac → t.digest = s.digest)

/-- R43: `SEEDV` is set by a successful `RESOLVE` or `LOAD` and by nothing else; it is cleared by reset, `CLEAR`, a failing `RESOLVE` or
`LOAD`, every `DECODE` and a host write to `SEED`, and by nothing else; `DERIVE` refuses to run without it. -/
def Obligations.SeedValidOnlyWhenVerified : Prop :=
  (∀ s t : State, step s = .next t →
    (s.seedV = false → t.seedV = true → (s.phase = .run 0x02#8 ∨ s.phase = .run 0x05#8) ∧ t.err = 0#8) ∧
    (s.seedV = true → t.seedV = false →
      (∃ rest, s.script = .reset :: rest) ∨ s.phase = .run 0x06#8 ∨ s.phase = .run 0x03#8 ∨
      ((s.phase = .run 0x02#8 ∨ s.phase = .run 0x05#8) ∧ t.err ≠ 0#8) ∨
      ∃ (a : Addr) (v : Byte) (rest : List Turn), s.script = .host (.write a v) :: rest ∧ 0x040 ≤ a.toNat ∧ a.toNat ≤ 0x04F)) ∧
  (∀ (s t : State) (rest : List Turn), s.script = .reset :: rest → step s = .next t → t.seedV = false) ∧
  (∀ s t : State, exec .clear s = .next t → t.seedV = false) ∧
  (∀ s t : State, exec .decode s = .next t → t.seedV = false) ∧
  (∀ s t : State, exec .resolve s = .next t → (t.seedV = true ↔ t.err = 0#8)) ∧
  (∀ s t : State, exec .load s = .next t → (t.seedV = true ↔ t.err = 0#8)) ∧
  (∀ (s : State) (a : Addr) (v : Byte), 0x040 ≤ a.toNat → a.toNat ≤ 0x04F → (writeByte s a v).seedV = false) ∧
  (∀ s t : State, s.seedV = false → exec .derive s = .next t → t.err = 5#8 ∧ t.codeV = false)

/-- No code without a verified seed: `CODEV` becomes 1 only by a `DERIVE` that found `SEEDV = 1` and legal operands. -/
def Obligations.CodeValidOnlyFromVerifiedSeed : Prop :=
  ∀ s t : State, step s = .next t → s.codeV = false → t.codeV = true →
    s.phase = .run 0x04#8 ∧ s.seedV = true ∧ 1 ≤ s.digits.toNat ∧ s.digits.toNat ≤ 8 ∧
      (s.interval = 30#8 ∨ s.interval = 60#8) ∧ s.time.toNat ≤ 253402300799 ∧ t.err = 0#8

/-! ### The host port -/

/-- R62: host reads. `STATUS` reads always, every other address while idle; `CMD` and reserved addresses read 0x00, every `R` or `RW`
byte reads as the register's; a read changes no state. -/
def Obligations.HostReadReturnsRegisterByte : Prop :=
  ∀ s : State,
    accessEnabled s (.read statusAddr) = true ∧ readByte s statusAddr = statusByte s ∧
    (∀ a, a ≠ statusAddr → (accessEnabled s (.read a) = true ↔ s.phase = .idle)) ∧
    readByte s 0x000#9 = 0#8 ∧ (∀ a, isReserved a = true → readByte s a = 0#8) ∧
    (∀ r k, k < regSize r → regAccess r ≠ .w → readByte s (regAddr r k) = regByte s r k) ∧
    (∀ (a : Addr) (rest : List Turn), s.script = .host (.read a) :: rest → accessEnabled s (.read a) = true →
      step s = .next { s with script := rest, replies := s.replies ++ [readByte s a] })

/-- R63: host writes, in a state whose buffer memory is in canonical form (an invariant, `StepKeepsInvariant`). (a) a write to `CMD`
issues; (b) an `RW` byte takes the value, the byte at 0x00E without its bit 7, and no other byte but `STATUS` reads otherwise; (c) a write
to `SEED` clears `SEEDV`; (d) a write to an `R` register or a reserved address changes nothing; no other write has a side effect. -/
def Obligations.HostWriteStoresByte : Prop :=
  ∀ s : State, Memory.wf s.mem →
    (∀ a v, accessEnabled s (.write a v) = true ↔ s.phase = .idle) ∧
    (∀ v, writeByte s 0x000#9 v = { s with phase := .run v, done := false, err := 0#8, errInfo := 0#8 }) ∧
    (∀ (r : Reg) (k : Nat) (v : Byte), k < regSize r → regAccess r = .rw →
      readByte (writeByte s (regAddr r k) v) (regAddr r k) = (if regAddr r k = 0x00E#9 then v &&& 0x7F#8 else v) ∧
      (∀ b, b ≠ regAddr r k → b ≠ statusAddr → readByte (writeByte s (regAddr r k) v) b = readByte s b) ∧
      (writeByte s (regAddr r k) v).phase = s.phase ∧ (writeByte s (regAddr r k) v).done = s.done ∧
      (writeByte s (regAddr r k) v).codeV = s.codeV ∧
      (writeByte s (regAddr r k) v).seedV = if r = .seed then false else s.seedV) ∧
    (∀ r k v, k < regSize r → regAccess r = .r → writeByte s (regAddr r k) v = s) ∧
    (∀ a v, isReserved a = true → writeByte s a v = s)

/-- R65: the reserved locations read 0x00 and ignore writes, and they are exactly the locations at which no register lies (R61). -/
def Obligations.ReservedLocationsAreNotStorage : Prop :=
  ∀ a : Addr, (isReserved a = true ↔ locate a = none) ∧
    (isReserved a = true → ∀ (s : State) (v : Byte), readByte s a = 0#8 ∧ writeByte s a v = s)

/-- R21, R61: every byte of every register has one address of its own: no two registers overlap and every address inside one is found. -/
def Obligations.AddressMapHasNoOverlap : Prop :=
  (∀ (r : Reg) (k : Nat), k < regSize r → locate (regAddr r k) = some (r, k)) ∧
  (∀ (a : Addr) (r : Reg) (k : Nat), locate a = some (r, k) → k < regSize r ∧ a = regAddr r k)

/-- R66: numeric registers read most significant byte at the lowest address; byte-string registers and buffers have element `i` at base
address plus `i`. -/
def Obligations.RegistersAreBigEndian : Prop :=
  ∀ s : State,
    readNumber s .msgLen 2 = s.msgLen.toNat ∧ readNumber s .flags 2 = s.flags.toNat ∧
    readNumber s .checksum 2 = s.checksum.toNat ∧ readNumber s .time 8 = s.time.toNat ∧
    readNumber s .codeBin 4 = s.codeBin.toNat ∧
    (∀ i, i < 6 → readByte s (regAddr .serial i) = byteAt s.serial i) ∧
    (∀ i, i < 16 → readByte s (regAddr .encSeed i) = byteAt s.encSeed i ∧ readByte s (regAddr .seed i) = byteAt s.seed i ∧
      readByte s (regAddr .digest i) = byteAt s.digest i ∧ readByte s (regAddr .kdOut i) = byteAt s.kdOut i) ∧
    (∀ i, i < 8 → readByte s (regAddr .timeBcd i) = byteAt s.timeBcd i ∧ readByte s (regAddr .code i) = byteAt s.code i) ∧
    (∀ i, i < 96 → readByte s (regAddr .tokBuf i) = tokChar s i) ∧ (∀ i, i < 256 → readByte s (regAddr .msgBuf i) = msgByte s i)

/-- The bits of `STATUS` (R41, the layout; when each flag is set and cleared is said by the command statements). -/
def Obligations.StatusBits : Prop :=
  ∀ s : State, ((statusByte s).getLsbD 0 = true ↔ s.phase ≠ .idle) ∧ (statusByte s).getLsbD 1 = s.done ∧
    ((statusByte s).getLsbD 2 = true ↔ s.err ≠ 0#8) ∧ (statusByte s).getLsbD 3 = s.seedV ∧ (statusByte s).getLsbD 4 = s.codeV ∧
    (statusByte s).getLsbD 5 = false ∧ (statusByte s).getLsbD 6 = false ∧ (statusByte s).getLsbD 7 = false

/-- R98: `WRS REG, h0 ... hn` on an idle block leaves the bytes at ascending addresses of the register (the byte at 0x00E without its bit 7)
and uses up exactly its own host steps. -/
def Obligations.WriteStringStoresBytes : Prop :=
  ∀ (s : State) (r : Reg) (bs : List Byte) (rest : List Turn), s.phase = .idle → Memory.wf s.mem → regAccess r = .rw →
    bs.length ≤ regSize r → s.script = expand (.wrs r bs) ++ rest →
    ∃ t : State, Host.Core.run Sys2Proof.core bs.length s = .next t ∧ t.phase = .idle ∧ t.script = rest ∧ t.replies = s.replies ∧
      ∀ (k : Nat) (b : Byte), bs[k]? = some b →
        readByte t (regAddr r k) = if regAddr r k = 0x00E#9 then b &&& 0x7F#8 else b

/-! ### The two sequences that give a code -/

/-- R265: sequence A. With an acceptable token string in `TOKBUF` and a legal time, the commands `DECODE`, `RESOLVE`, `DERIVE` issued one after
the other end in the code of the resolved seed when the embedded checksum is the computed one, and in `NotReady` with no seed and no code
when it is not. -/
def Obligations.TokenStringGivesCode : Prop :=
  ∀ s : State, s.phase = .idle → s.script = [commandTurn 0x03#8, commandTurn 0x02#8, commandTurn 0x04#8] →
    s.tokLen.toNat = 76 + Config.trailer.val → (∀ i, 1 ≤ i → i ≤ 12 → isHexDigit (tokChar s i) = true) →
    (∀ i, 13 ≤ i → i ≤ 75 → isDecimalDigit (tokChar s i) = true) → s.time.toNat ≤ 253402300799 →
    let buf := pack (tokSlice s 13 76)
    let cand := candidateSeed Config.params (encSeedField buf)
    let I := (intervalOf (flagsField buf)).toNat
    let ts := timestampBytes (anchorOf s.time.toNat I)
    let suffix := hexPairs ((List.range 8).map fun k => tokChar s (5 + k))
    ∃ t : State, Host.Core.run Sys2Proof.core 6 s = .next t ∧ t.phase = .idle ∧ t.script = [] ∧
      (top15 (macDigest Config.params cand.toList) = checksumField buf →
        t.err = 0#8 ∧ t.errInfo = 0#8 ∧ t.seedV = true ∧ t.codeV = true ∧ t.seed = cand ∧
        t.code = codeBytes (wordAt (deriveKey Config.params cand ts suffix) (subIndexOf s.time.toNat I))
          (digitsOf (flagsField buf)).toNat) ∧
      (top15 (macDigest Config.params cand.toList) ≠ checksumField buf →
        t.err = 5#8 ∧ t.errInfo = 0#8 ∧ t.seedV = false ∧ t.codeV = false ∧ t.seed = rep 16 0#8 ∧ t.code = rep 8 0#8)

/-- R266: sequence B. With legal `DIGITS`, `INTERVAL` and `TIME`, the commands `LOAD`, `DERIVE` end in the code of the seed that the host
wrote. -/
def Obligations.LoadedSeedGivesCode : Prop :=
  ∀ s : State, s.phase = .idle → s.script = [commandTurn 0x05#8, commandTurn 0x04#8] → 1 ≤ s.digits.toNat →
    s.digits.toNat ≤ 8 → (s.interval = 30#8 ∨ s.interval = 60#8) → s.time.toNat ≤ 253402300799 →
    let ts := timestampBytes (anchorOf s.time.toNat s.interval.toNat)
    ∃ t : State, Host.Core.run Sys2Proof.core 4 s = .next t ∧ t.phase = .idle ∧ t.script = [] ∧ t.err = 0#8 ∧ t.seedV = true ∧
      t.codeV = true ∧ t.seed = s.seed ∧
      t.code = codeBytes (wordAt (deriveKey Config.params s.seed ts ((s.serial.toList.drop 2).take 4))
        (subIndexOf s.time.toNat s.interval.toNat)) s.digits.toNat
end

