-- ==== Sys2Proof/Laws/Bytes.lean ====
section
/-! SUPPORT. The laws of byte strings and of numeric registers read and written byte by byte. -/

namespace Sys2Proof.Machine

/-- Inside a byte string `byteAt` is the element. -/
theorem byteAt_eq_getElem {n : Nat} (v : Bytes n) {i : Nat} (h : i < n) : byteAt v i = v[i] := by
  simp [byteAt, h]

/-- Beyond its end a byte string has no element. -/
theorem byteAt_of_le {n : Nat} (v : Bytes n) {i : Nat} (h : n ≤ i) : byteAt v i = 0#8 := by
  simp [byteAt, h]

/-- Two byte strings with the same elements are equal. -/
theorem bytes_ext {n : Nat} {v w : Bytes n} (h : ∀ i < n, byteAt v i = byteAt w i) : v = w := by
  ext i hi
  have := h i hi
  rw [byteAt_eq_getElem v hi, byteAt_eq_getElem w hi] at this
  rw [this]

@[simp] theorem byteAt_rep {n : Nat} (v : Byte) {i : Nat} (h : i < n) : byteAt (rep n v) i = v := by
  simp [byteAt, rep, h]

@[simp] theorem byteAt_bytesOf {n : Nat} (l : List Byte) {i : Nat} (h : i < n) : byteAt (bytesOf n l) i = l.getD i 0#8 := by
  simp [byteAt, bytesOf, h]

theorem byteAt_setByteAt_same {n : Nat} (v : Bytes n) {i : Nat} (h : i < n) (b : Byte) : byteAt (setByteAt v i b) i = b := by
  simp [byteAt, setByteAt, h]

theorem byteAt_setByteAt_other {n : Nat} (v : Bytes n) {i j : Nat} (h : j ≠ i) (b : Byte) :
    byteAt (setByteAt v i b) j = byteAt v j := by
  simp [byteAt, setByteAt, h.symm]

@[simp] theorem byteAt_xor16 (a b : B16) {i : Nat} (h : i < 16) : byteAt (xor16 a b) i = byteAt a i ^^^ byteAt b i := by
  simp [byteAt, xor16, h]

/-- A byte written into a number and read back, cut to the number's width. -/
theorem numByte_setNumByte_same {w : Nat} (v : BitVec w) (k : Nat) (b : Byte) :
    numByte (setNumByte v k b) k = b &&& (BitVec.allOnes (w - 8 * k)).setWidth 8 := by
  ext i hi
  simp only [numByte, setNumByte, BitVec.getElem_setWidth, BitVec.getLsbD_ushiftRight, BitVec.getLsbD_or, BitVec.getLsbD_and,
    BitVec.getLsbD_not, BitVec.getLsbD_shiftLeft, BitVec.getLsbD_setWidth, BitVec.getLsbD_allOnes, BitVec.getElem_and]
  have h1 : 8 * k + i - 8 * k = i := by omega
  have h2 : ¬ (8 * k + i < 8 * k) := by omega
  by_cases h3 : 8 * k + i < w
  · have h4 : i < w - 8 * k := by omega
    have h5 : i < w := by omega
    simp [h1, h3, h4, h5, hi]
  · have h4 : ¬ i < w - 8 * k := by omega
    have h5 : v.getLsbD (8 * k + i) = false := BitVec.getLsbD_of_ge _ _ (by omega)
    simp [h3, h4]

/-- Writing one byte of a number leaves its other bytes alone. -/
theorem numByte_setNumByte_other {w : Nat} (v : BitVec w) {j k : Nat} (h : j ≠ k) (b : Byte) :
    numByte (setNumByte v k b) j = numByte v j := by
  ext i hi
  simp only [numByte, setNumByte, BitVec.getElem_setWidth, BitVec.getLsbD_ushiftRight, BitVec.getLsbD_or, BitVec.getLsbD_and,
    BitVec.getLsbD_not, BitVec.getLsbD_shiftLeft, BitVec.getLsbD_setWidth, BitVec.getLsbD_allOnes]
  by_cases h3 : 8 * j + i < w
  · by_cases h4 : 8 * j + i < 8 * k
    · simp [h3, h4]
    · have h6 : ¬ 8 * j + i - 8 * k < 8 := by omega
      have h7 : b.getLsbD (8 * j + i - 8 * k) = false := BitVec.getLsbD_of_ge _ _ (by omega)
      simp [h3, h4, h6, h7]
  · have h5 : v.getLsbD (8 * j + i) = false := BitVec.getLsbD_of_ge _ _ (by omega)
    simp [h3, h5]

end Sys2Proof.Machine
end

