-- ==== Sys2Proof/Laws/State.lean ====
section
/-! SUPPORT. One lemma per field of `State` for each named update: what the field is after it. Each is true by unfolding. -/

namespace Sys2Proof.Machine

section
variable (op : Byte) (s : State)

@[simp] theorem issue_phase : (issue op s).phase = .run op := rfl
@[simp] theorem issue_done : (issue op s).done = false := rfl
@[simp] theorem issue_seedV : (issue op s).seedV = s.seedV := rfl
@[simp] theorem issue_codeV : (issue op s).codeV = s.codeV := rfl
@[simp] theorem issue_err : (issue op s).err = 0#8 := rfl
@[simp] theorem issue_errInfo : (issue op s).errInfo = 0#8 := rfl
@[simp] theorem issue_tokLen : (issue op s).tokLen = s.tokLen := rfl
@[simp] theorem issue_ver : (issue op s).ver = s.ver := rfl
@[simp] theorem issue_msgLen : (issue op s).msgLen = s.msgLen := rfl
@[simp] theorem issue_digits : (issue op s).digits = s.digits := rfl
@[simp] theorem issue_interval : (issue op s).interval = s.interval := rfl
@[simp] theorem issue_subIdx : (issue op s).subIdx = s.subIdx := rfl
@[simp] theorem issue_flags : (issue op s).flags = s.flags := rfl
@[simp] theorem issue_checksum : (issue op s).checksum = s.checksum := rfl
@[simp] theorem issue_time : (issue op s).time = s.time := rfl
@[simp] theorem issue_timeBcd : (issue op s).timeBcd = s.timeBcd := rfl
@[simp] theorem issue_serial : (issue op s).serial = s.serial := rfl
@[simp] theorem issue_codeBin : (issue op s).codeBin = s.codeBin := rfl
@[simp] theorem issue_encSeed : (issue op s).encSeed = s.encSeed := rfl
@[simp] theorem issue_seed : (issue op s).seed = s.seed := rfl
@[simp] theorem issue_digest : (issue op s).digest = s.digest := rfl
@[simp] theorem issue_kdOut : (issue op s).kdOut = s.kdOut := rfl
@[simp] theorem issue_code : (issue op s).code = s.code := rfl
@[simp] theorem issue_mem : (issue op s).mem = s.mem := rfl
@[simp] theorem issue_script : (issue op s).script = s.script := rfl
@[simp] theorem issue_replies : (issue op s).replies = s.replies := rfl
@[simp] theorem issue_trace : (issue op s).trace = s.trace := rfl

end

section
variable (s : State)

@[simp] theorem succeed_phase : (succeed s).phase = .idle := rfl
@[simp] theorem succeed_done : (succeed s).done = true := rfl
@[simp] theorem succeed_seedV : (succeed s).seedV = s.seedV := rfl
@[simp] theorem succeed_codeV : (succeed s).codeV = s.codeV := rfl
@[simp] theorem succeed_err : (succeed s).err = 0#8 := rfl
@[simp] theorem succeed_errInfo : (succeed s).errInfo = 0#8 := rfl
@[simp] theorem succeed_tokLen : (succeed s).tokLen = s.tokLen := rfl
@[simp] theorem succeed_ver : (succeed s).ver = s.ver := rfl
@[simp] theorem succeed_msgLen : (succeed s).msgLen = s.msgLen := rfl
@[simp] theorem succeed_digits : (succeed s).digits = s.digits := rfl
@[simp] theorem succeed_interval : (succeed s).interval = s.interval := rfl
@[simp] theorem succeed_subIdx : (succeed s).subIdx = s.subIdx := rfl
@[simp] theorem succeed_flags : (succeed s).flags = s.flags := rfl
@[simp] theorem succeed_checksum : (succeed s).checksum = s.checksum := rfl
@[simp] theorem succeed_time : (succeed s).time = s.time := rfl
@[simp] theorem succeed_timeBcd : (succeed s).timeBcd = s.timeBcd := rfl
@[simp] theorem succeed_serial : (succeed s).serial = s.serial := rfl
@[simp] theorem succeed_codeBin : (succeed s).codeBin = s.codeBin := rfl
@[simp] theorem succeed_encSeed : (succeed s).encSeed = s.encSeed := rfl
@[simp] theorem succeed_seed : (succeed s).seed = s.seed := rfl
@[simp] theorem succeed_digest : (succeed s).digest = s.digest := rfl
@[simp] theorem succeed_kdOut : (succeed s).kdOut = s.kdOut := rfl
@[simp] theorem succeed_code : (succeed s).code = s.code := rfl
@[simp] theorem succeed_mem : (succeed s).mem = s.mem := rfl
@[simp] theorem succeed_script : (succeed s).script = s.script := rfl
@[simp] theorem succeed_replies : (succeed s).replies = s.replies := rfl
@[simp] theorem succeed_trace : (succeed s).trace = s.trace := rfl

end

section
variable (e : ErrorKind) (b : Byte) (s : State)

@[simp] theorem raise_phase : (raise e b s).phase = .idle := rfl
@[simp] theorem raise_done : (raise e b s).done = true := rfl
@[simp] theorem raise_seedV : (raise e b s).seedV = s.seedV := rfl
@[simp] theorem raise_codeV : (raise e b s).codeV = s.codeV := rfl
@[simp] theorem raise_err : (raise e b s).err = errorCode e := rfl
@[simp] theorem raise_errInfo : (raise e b s).errInfo = b := rfl
@[simp] theorem raise_tokLen : (raise e b s).tokLen = s.tokLen := rfl
@[simp] theorem raise_ver : (raise e b s).ver = s.ver := rfl
@[simp] theorem raise_msgLen : (raise e b s).msgLen = s.msgLen := rfl
@[simp] theorem raise_digits : (raise e b s).digits = s.digits := rfl
@[simp] theorem raise_interval : (raise e b s).interval = s.interval := rfl
@[simp] theorem raise_subIdx : (raise e b s).subIdx = s.subIdx := rfl
@[simp] theorem raise_flags : (raise e b s).flags = s.flags := rfl
@[simp] theorem raise_checksum : (raise e b s).checksum = s.checksum := rfl
@[simp] theorem raise_time : (raise e b s).time = s.time := rfl
@[simp] theorem raise_timeBcd : (raise e b s).timeBcd = s.timeBcd := rfl
@[simp] theorem raise_serial : (raise e b s).serial = s.serial := rfl
@[simp] theorem raise_codeBin : (raise e b s).codeBin = s.codeBin := rfl
@[simp] theorem raise_encSeed : (raise e b s).encSeed = s.encSeed := rfl
@[simp] theorem raise_seed : (raise e b s).seed = s.seed := rfl
@[simp] theorem raise_digest : (raise e b s).digest = s.digest := rfl
@[simp] theorem raise_kdOut : (raise e b s).kdOut = s.kdOut := rfl
@[simp] theorem raise_code : (raise e b s).code = s.code := rfl
@[simp] theorem raise_mem : (raise e b s).mem = s.mem := rfl
@[simp] theorem raise_script : (raise e b s).script = s.script := rfl
@[simp] theorem raise_replies : (raise e b s).replies = s.replies := rfl
@[simp] theorem raise_trace : (raise e b s).trace = s.trace := rfl

end

section
variable (s : State)

@[simp] theorem seedWritten_phase : (seedWritten s).phase = s.phase := rfl
@[simp] theorem seedWritten_done : (seedWritten s).done = s.done := rfl
@[simp] theorem seedWritten_seedV : (seedWritten s).seedV = false := rfl
@[simp] theorem seedWritten_codeV : (seedWritten s).codeV = s.codeV := rfl
@[simp] theorem seedWritten_err : (seedWritten s).err = s.err := rfl
@[simp] theorem seedWritten_errInfo : (seedWritten s).errInfo = s.errInfo := rfl
@[simp] theorem seedWritten_tokLen : (seedWritten s).tokLen = s.tokLen := rfl
@[simp] theorem seedWritten_ver : (seedWritten s).ver = s.ver := rfl
@[simp] theorem seedWritten_msgLen : (seedWritten s).msgLen = s.msgLen := rfl
@[simp] theorem seedWritten_digits : (seedWritten s).digits = s.digits := rfl
@[simp] theorem seedWritten_interval : (seedWritten s).interval = s.interval := rfl
@[simp] theorem seedWritten_subIdx : (seedWritten s).subIdx = s.subIdx := rfl
@[simp] theorem seedWritten_flags : (seedWritten s).flags = s.flags := rfl
@[simp] theorem seedWritten_checksum : (seedWritten s).checksum = s.checksum := rfl
@[simp] theorem seedWritten_time : (seedWritten s).time = s.time := rfl
@[simp] theorem seedWritten_timeBcd : (seedWritten s).timeBcd = s.timeBcd := rfl
@[simp] theorem seedWritten_serial : (seedWritten s).serial = s.serial := rfl
@[simp] theorem seedWritten_codeBin : (seedWritten s).codeBin = s.codeBin := rfl
@[simp] theorem seedWritten_encSeed : (seedWritten s).encSeed = s.encSeed := rfl
@[simp] theorem seedWritten_seed : (seedWritten s).seed = s.seed := rfl
@[simp] theorem seedWritten_digest : (seedWritten s).digest = s.digest := rfl
@[simp] theorem seedWritten_kdOut : (seedWritten s).kdOut = s.kdOut := rfl
@[simp] theorem seedWritten_code : (seedWritten s).code = s.code := rfl
@[simp] theorem seedWritten_mem : (seedWritten s).mem = s.mem := rfl
@[simp] theorem seedWritten_script : (seedWritten s).script = s.script := rfl
@[simp] theorem seedWritten_replies : (seedWritten s).replies = s.replies := rfl
@[simp] theorem seedWritten_trace : (seedWritten s).trace = s.trace := rfl

end

section
variable (s : State)

@[simp] theorem zeroToken_phase : (zeroToken s).phase = s.phase := rfl
@[simp] theorem zeroToken_done : (zeroToken s).done = s.done := rfl
@[simp] theorem zeroToken_seedV : (zeroToken s).seedV = s.seedV := rfl
@[simp] theorem zeroToken_codeV : (zeroToken s).codeV = s.codeV := rfl
@[simp] theorem zeroToken_err : (zeroToken s).err = s.err := rfl
@[simp] theorem zeroToken_errInfo : (zeroToken s).errInfo = s.errInfo := rfl
@[simp] theorem zeroToken_tokLen : (zeroToken s).tokLen = s.tokLen := rfl
@[simp] theorem zeroToken_ver : (zeroToken s).ver = 0#8 := rfl
@[simp] theorem zeroToken_msgLen : (zeroToken s).msgLen = s.msgLen := rfl
@[simp] theorem zeroToken_digits : (zeroToken s).digits = 0#8 := rfl
@[simp] theorem zeroToken_interval : (zeroToken s).interval = 0#8 := rfl
@[simp] theorem zeroToken_subIdx : (zeroToken s).subIdx = s.subIdx := rfl
@[simp] theorem zeroToken_flags : (zeroToken s).flags = 0#16 := rfl
@[simp] theorem zeroToken_checksum : (zeroToken s).checksum = 0#15 := rfl
@[simp] theorem zeroToken_time : (zeroToken s).time = s.time := rfl
@[simp] theorem zeroToken_timeBcd : (zeroToken s).timeBcd = s.timeBcd := rfl
@[simp] theorem zeroToken_serial : (zeroToken s).serial = rep 6 0#8 := rfl
@[simp] theorem zeroToken_codeBin : (zeroToken s).codeBin = s.codeBin := rfl
@[simp] theorem zeroToken_encSeed : (zeroToken s).encSeed = rep 16 0#8 := rfl
@[simp] theorem zeroToken_seed : (zeroToken s).seed = s.seed := rfl
@[simp] theorem zeroToken_digest : (zeroToken s).digest = s.digest := rfl
@[simp] theorem zeroToken_kdOut : (zeroToken s).kdOut = s.kdOut := rfl
@[simp] theorem zeroToken_code : (zeroToken s).code = s.code := rfl
@[simp] theorem zeroToken_mem : (zeroToken s).mem = s.mem := rfl
@[simp] theorem zeroToken_script : (zeroToken s).script = s.script := rfl
@[simp] theorem zeroToken_replies : (zeroToken s).replies = s.replies := rfl
@[simp] theorem zeroToken_trace : (zeroToken s).trace = s.trace := rfl

end

section
variable (s : State)

@[simp] theorem zeroResults_phase : (zeroResults s).phase = s.phase := rfl
@[simp] theorem zeroResults_done : (zeroResults s).done = s.done := rfl
@[simp] theorem zeroResults_seedV : (zeroResults s).seedV = s.seedV := rfl
@[simp] theorem zeroResults_codeV : (zeroResults s).codeV = false := rfl
@[simp] theorem zeroResults_err : (zeroResults s).err = s.err := rfl
@[simp] theorem zeroResults_errInfo : (zeroResults s).errInfo = s.errInfo := rfl
@[simp] theorem zeroResults_tokLen : (zeroResults s).tokLen = s.tokLen := rfl
@[simp] theorem zeroResults_ver : (zeroResults s).ver = s.ver := rfl
@[simp] theorem zeroResults_msgLen : (zeroResults s).msgLen = s.msgLen := rfl
@[simp] theorem zeroResults_digits : (zeroResults s).digits = s.digits := rfl
@[simp] theorem zeroResults_interval : (zeroResults s).interval = s.interval := rfl
@[simp] theorem zeroResults_subIdx : (zeroResults s).subIdx = 0#8 := rfl
@[simp] theorem zeroResults_flags : (zeroResults s).flags = s.flags := rfl
@[simp] theorem zeroResults_checksum : (zeroResults s).checksum = s.checksum := rfl
@[simp] theorem zeroResults_time : (zeroResults s).time = s.time := rfl
@[simp] theorem zeroResults_timeBcd : (zeroResults s).timeBcd = rep 8 0#8 := rfl
@[simp] theorem zeroResults_serial : (zeroResults s).serial = s.serial := rfl
@[simp] theorem zeroResults_codeBin : (zeroResults s).codeBin = 0#32 := rfl
@[simp] theorem zeroResults_encSeed : (zeroResults s).encSeed = s.encSeed := rfl
@[simp] theorem zeroResults_seed : (zeroResults s).seed = s.seed := rfl
@[simp] theorem zeroResults_digest : (zeroResults s).digest = s.digest := rfl
@[simp] theorem zeroResults_kdOut : (zeroResults s).kdOut = rep 16 0#8 := rfl
@[simp] theorem zeroResults_code : (zeroResults s).code = rep 8 0#8 := rfl
@[simp] theorem zeroResults_mem : (zeroResults s).mem = s.mem := rfl
@[simp] theorem zeroResults_script : (zeroResults s).script = s.script := rfl
@[simp] theorem zeroResults_replies : (zeroResults s).replies = s.replies := rfl
@[simp] theorem zeroResults_trace : (zeroResults s).trace = [] := rfl

end

section
variable (op : Byte) (s : State)

@[simp] theorem placeCommand_phase : (placeCommand op s).phase = .run op := rfl
@[simp] theorem placeCommand_done : (placeCommand op s).done = s.done := rfl
@[simp] theorem placeCommand_seedV : (placeCommand op s).seedV = s.seedV := rfl
@[simp] theorem placeCommand_codeV : (placeCommand op s).codeV = s.codeV := rfl
@[simp] theorem placeCommand_err : (placeCommand op s).err = s.err := rfl
@[simp] theorem placeCommand_errInfo : (placeCommand op s).errInfo = s.errInfo := rfl
@[simp] theorem placeCommand_tokLen : (placeCommand op s).tokLen = s.tokLen := rfl
@[simp] theorem placeCommand_ver : (placeCommand op s).ver = s.ver := rfl
@[simp] theorem placeCommand_msgLen : (placeCommand op s).msgLen = s.msgLen := rfl
@[simp] theorem placeCommand_digits : (placeCommand op s).digits = s.digits := rfl
@[simp] theorem placeCommand_interval : (placeCommand op s).interval = s.interval := rfl
@[simp] theorem placeCommand_subIdx : (placeCommand op s).subIdx = s.subIdx := rfl
@[simp] theorem placeCommand_flags : (placeCommand op s).flags = s.flags := rfl
@[simp] theorem placeCommand_checksum : (placeCommand op s).checksum = s.checksum := rfl
@[simp] theorem placeCommand_time : (placeCommand op s).time = s.time := rfl
@[simp] theorem placeCommand_timeBcd : (placeCommand op s).timeBcd = s.timeBcd := rfl
@[simp] theorem placeCommand_serial : (placeCommand op s).serial = s.serial := rfl
@[simp] theorem placeCommand_codeBin : (placeCommand op s).codeBin = s.codeBin := rfl
@[simp] theorem placeCommand_encSeed : (placeCommand op s).encSeed = s.encSeed := rfl
@[simp] theorem placeCommand_seed : (placeCommand op s).seed = s.seed := rfl
@[simp] theorem placeCommand_digest : (placeCommand op s).digest = s.digest := rfl
@[simp] theorem placeCommand_kdOut : (placeCommand op s).kdOut = s.kdOut := rfl
@[simp] theorem placeCommand_code : (placeCommand op s).code = s.code := rfl
@[simp] theorem placeCommand_mem : (placeCommand op s).mem = s.mem := rfl
@[simp] theorem placeCommand_script : (placeCommand op s).script = .engine :: s.script := rfl
@[simp] theorem placeCommand_replies : (placeCommand op s).replies = s.replies := rfl
@[simp] theorem placeCommand_trace : (placeCommand op s).trace = s.trace := rfl

end

section
variable (s : State)

@[simp] theorem storeToken_phase : (storeToken s).phase = s.phase := rfl
@[simp] theorem storeToken_done : (storeToken s).done = s.done := rfl
@[simp] theorem storeToken_seedV : (storeToken s).seedV = s.seedV := rfl
@[simp] theorem storeToken_codeV : (storeToken s).codeV = s.codeV := rfl
@[simp] theorem storeToken_err : (storeToken s).err = s.err := rfl
@[simp] theorem storeToken_errInfo : (storeToken s).errInfo = s.errInfo := rfl
@[simp] theorem storeToken_tokLen : (storeToken s).tokLen = s.tokLen := rfl
@[simp] theorem storeToken_ver : (storeToken s).ver = tokChar s 0 := rfl
@[simp] theorem storeToken_msgLen : (storeToken s).msgLen = s.msgLen := rfl
@[simp] theorem storeToken_digits : (storeToken s).digits = digitsOf (flagsField (pack (tokSlice s 13 76))) := rfl
@[simp] theorem storeToken_interval : (storeToken s).interval = intervalOf (flagsField (pack (tokSlice s 13 76))) := rfl
@[simp] theorem storeToken_subIdx : (storeToken s).subIdx = s.subIdx := rfl
@[simp] theorem storeToken_flags : (storeToken s).flags = flagsField (pack (tokSlice s 13 76)) := rfl
@[simp] theorem storeToken_checksum : (storeToken s).checksum = checksumField (pack (tokSlice s 13 76)) := rfl
@[simp] theorem storeToken_time : (storeToken s).time = s.time := rfl
@[simp] theorem storeToken_timeBcd : (storeToken s).timeBcd = s.timeBcd := rfl
@[simp] theorem storeToken_serial : (storeToken s).serial = bytesOf 6 (hexPairs (tokSlice s 1 13)) := rfl
@[simp] theorem storeToken_codeBin : (storeToken s).codeBin = s.codeBin := rfl
@[simp] theorem storeToken_encSeed : (storeToken s).encSeed = encSeedField (pack (tokSlice s 13 76)) := rfl
@[simp] theorem storeToken_seed : (storeToken s).seed = s.seed := rfl
@[simp] theorem storeToken_digest : (storeToken s).digest = s.digest := rfl
@[simp] theorem storeToken_kdOut : (storeToken s).kdOut = s.kdOut := rfl
@[simp] theorem storeToken_code : (storeToken s).code = s.code := rfl
@[simp] theorem storeToken_mem : (storeToken s).mem = s.mem := rfl
@[simp] theorem storeToken_script : (storeToken s).script = s.script := rfl
@[simp] theorem storeToken_replies : (storeToken s).replies = s.replies := rfl
@[simp] theorem storeToken_trace : (storeToken s).trace = s.trace := rfl

end

section
variable (p : Params) (s : State)

@[simp] theorem storeResults_phase : (storeResults p s).phase = s.phase := rfl
@[simp] theorem storeResults_done : (storeResults p s).done = s.done := rfl
@[simp] theorem storeResults_seedV : (storeResults p s).seedV = s.seedV := rfl
@[simp] theorem storeResults_codeV : (storeResults p s).codeV = true := rfl
@[simp] theorem storeResults_err : (storeResults p s).err = s.err := rfl
@[simp] theorem storeResults_errInfo : (storeResults p s).errInfo = s.errInfo := rfl
@[simp] theorem storeResults_tokLen : (storeResults p s).tokLen = s.tokLen := rfl
@[simp] theorem storeResults_ver : (storeResults p s).ver = s.ver := rfl
@[simp] theorem storeResults_msgLen : (storeResults p s).msgLen = s.msgLen := rfl
@[simp] theorem storeResults_digits : (storeResults p s).digits = s.digits := rfl
@[simp] theorem storeResults_interval : (storeResults p s).interval = s.interval := rfl
@[simp] theorem storeResults_subIdx : (storeResults p s).subIdx = BitVec.ofNat 8 (subIndexOf s.time.toNat s.interval.toNat) := rfl
@[simp] theorem storeResults_flags : (storeResults p s).flags = s.flags := rfl
@[simp] theorem storeResults_checksum : (storeResults p s).checksum = s.checksum := rfl
@[simp] theorem storeResults_time : (storeResults p s).time = s.time := rfl
@[simp] theorem storeResults_timeBcd : (storeResults p s).timeBcd = timestampBytes (anchorOf s.time.toNat s.interval.toNat) := rfl
@[simp] theorem storeResults_serial : (storeResults p s).serial = s.serial := rfl
@[simp] theorem storeResults_codeBin : (storeResults p s).codeBin = wordAt (deriveKey p s.seed (timestampBytes (anchorOf s.time.toNat s.interval.toNat)) (serialSuffix s)) (subIndexOf s.time.toNat s.interval.toNat) := rfl
@[simp] theorem storeResults_encSeed : (storeResults p s).encSeed = s.encSeed := rfl
@[simp] theorem storeResults_seed : (storeResults p s).seed = s.seed := rfl
@[simp] theorem storeResults_digest : (storeResults p s).digest = s.digest := rfl
@[simp] theorem storeResults_kdOut : (storeResults p s).kdOut = deriveKey p s.seed (timestampBytes (anchorOf s.time.toNat s.interval.toNat)) (serialSuffix s) := rfl
@[simp] theorem storeResults_code : (storeResults p s).code = codeBytes (wordAt (deriveKey p s.seed (timestampBytes (anchorOf s.time.toNat s.interval.toNat)) (serialSuffix s)) (subIndexOf s.time.toNat s.interval.toNat)) s.digits.toNat := rfl
@[simp] theorem storeResults_mem : (storeResults p s).mem = s.mem := rfl
@[simp] theorem storeResults_script : (storeResults p s).script = s.script := rfl
@[simp] theorem storeResults_replies : (storeResults p s).replies = s.replies := rfl
@[simp] theorem storeResults_trace : (storeResults p s).trace = deriveTrace p s.seed (timestampBytes (anchorOf s.time.toNat s.interval.toNat)) (serialSuffix s) := rfl

end

section
variable (turns : List Turn) (s : State)

@[simp] theorem withTurns_phase : (withTurns turns s).phase = s.phase := rfl
@[simp] theorem withTurns_done : (withTurns turns s).done = s.done := rfl
@[simp] theorem withTurns_seedV : (withTurns turns s).seedV = s.seedV := rfl
@[simp] theorem withTurns_codeV : (withTurns turns s).codeV = s.codeV := rfl
@[simp] theorem withTurns_err : (withTurns turns s).err = s.err := rfl
@[simp] theorem withTurns_errInfo : (withTurns turns s).errInfo = s.errInfo := rfl
@[simp] theorem withTurns_tokLen : (withTurns turns s).tokLen = s.tokLen := rfl
@[simp] theorem withTurns_ver : (withTurns turns s).ver = s.ver := rfl
@[simp] theorem withTurns_msgLen : (withTurns turns s).msgLen = s.msgLen := rfl
@[simp] theorem withTurns_digits : (withTurns turns s).digits = s.digits := rfl
@[simp] theorem withTurns_interval : (withTurns turns s).interval = s.interval := rfl
@[simp] theorem withTurns_subIdx : (withTurns turns s).subIdx = s.subIdx := rfl
@[simp] theorem withTurns_flags : (withTurns turns s).flags = s.flags := rfl
@[simp] theorem withTurns_checksum : (withTurns turns s).checksum = s.checksum := rfl
@[simp] theorem withTurns_time : (withTurns turns s).time = s.time := rfl
@[simp] theorem withTurns_timeBcd : (withTurns turns s).timeBcd = s.timeBcd := rfl
@[simp] theorem withTurns_serial : (withTurns turns s).serial = s.serial := rfl
@[simp] theorem withTurns_codeBin : (withTurns turns s).codeBin = s.codeBin := rfl
@[simp] theorem withTurns_encSeed : (withTurns turns s).encSeed = s.encSeed := rfl
@[simp] theorem withTurns_seed : (withTurns turns s).seed = s.seed := rfl
@[simp] theorem withTurns_digest : (withTurns turns s).digest = s.digest := rfl
@[simp] theorem withTurns_kdOut : (withTurns turns s).kdOut = s.kdOut := rfl
@[simp] theorem withTurns_code : (withTurns turns s).code = s.code := rfl
@[simp] theorem withTurns_mem : (withTurns turns s).mem = s.mem := rfl
@[simp] theorem withTurns_script : (withTurns turns s).script = turns := rfl
@[simp] theorem withTurns_replies : (withTurns turns s).replies = s.replies := rfl
@[simp] theorem withTurns_trace : (withTurns turns s).trace = s.trace := rfl

end

section
variable (s : State)

@[simp] theorem resetTurn_phase : (resetTurn s).phase = State.reset.phase := rfl
@[simp] theorem resetTurn_done : (resetTurn s).done = State.reset.done := rfl
@[simp] theorem resetTurn_seedV : (resetTurn s).seedV = State.reset.seedV := rfl
@[simp] theorem resetTurn_codeV : (resetTurn s).codeV = State.reset.codeV := rfl
@[simp] theorem resetTurn_err : (resetTurn s).err = State.reset.err := rfl
@[simp] theorem resetTurn_errInfo : (resetTurn s).errInfo = State.reset.errInfo := rfl
@[simp] theorem resetTurn_tokLen : (resetTurn s).tokLen = State.reset.tokLen := rfl
@[simp] theorem resetTurn_ver : (resetTurn s).ver = State.reset.ver := rfl
@[simp] theorem resetTurn_msgLen : (resetTurn s).msgLen = State.reset.msgLen := rfl
@[simp] theorem resetTurn_digits : (resetTurn s).digits = State.reset.digits := rfl
@[simp] theorem resetTurn_interval : (resetTurn s).interval = State.reset.interval := rfl
@[simp] theorem resetTurn_subIdx : (resetTurn s).subIdx = State.reset.subIdx := rfl
@[simp] theorem resetTurn_flags : (resetTurn s).flags = State.reset.flags := rfl
@[simp] theorem resetTurn_checksum : (resetTurn s).checksum = State.reset.checksum := rfl
@[simp] theorem resetTurn_time : (resetTurn s).time = State.reset.time := rfl
@[simp] theorem resetTurn_timeBcd : (resetTurn s).timeBcd = State.reset.timeBcd := rfl
@[simp] theorem resetTurn_serial : (resetTurn s).serial = State.reset.serial := rfl
@[simp] theorem resetTurn_codeBin : (resetTurn s).codeBin = State.reset.codeBin := rfl
@[simp] theorem resetTurn_encSeed : (resetTurn s).encSeed = State.reset.encSeed := rfl
@[simp] theorem resetTurn_seed : (resetTurn s).seed = State.reset.seed := rfl
@[simp] theorem resetTurn_digest : (resetTurn s).digest = State.reset.digest := rfl
@[simp] theorem resetTurn_kdOut : (resetTurn s).kdOut = State.reset.kdOut := rfl
@[simp] theorem resetTurn_code : (resetTurn s).code = State.reset.code := rfl
@[simp] theorem resetTurn_mem : (resetTurn s).mem = State.reset.mem := rfl
@[simp] theorem resetTurn_script : (resetTurn s).script = s.script := rfl
@[simp] theorem resetTurn_replies : (resetTurn s).replies = s.replies := rfl
@[simp] theorem resetTurn_trace : (resetTurn s).trace = State.reset.trace := rfl

end

end Sys2Proof.Machine
end

