-- ==== Sys2Proof/Laws/Commands.lean ====
section
/-! SUPPORT. One lemma per command that says once everything it can do, over any parameters, and one for every command together. -/

namespace Sys2Proof.Machine

theorem macCommand_cases (p : Params) (s : State) :
    (256 < s.msgLen.toNat ∧ macCommand p s = raise .invalidParameter 4#8 { s with digest := rep 16 0#8, trace := [] }) ∨
    (s.msgLen.toNat ≤ 256 ∧
      macCommand p s = succeed { s with digest := macDigest p (message s), trace := macTrace p (message s) }) := by
  unfold macCommand Config.msgMax
  split
  · exact .inl ⟨by assumption, rfl⟩
  · exact .inr ⟨by omega, rfl⟩

theorem resolveCommand_cases (p : Params) (s : State) :
    (computedChecksum p s.encSeed ≠ s.checksum ∧
      resolveCommand p s =
        raise .integrityError 0#8 { s with seed := rep 16 0#8, seedV := false, trace := resolveTrace p s.encSeed }) ∨
    (computedChecksum p s.encSeed = s.checksum ∧
      resolveCommand p s =
        succeed { s with seed := candidateSeed p s.encSeed, seedV := true, trace := resolveTrace p s.encSeed }) := by
  by_cases h : computedChecksum p s.encSeed = s.checksum
  · exact .inr ⟨h, by simp [resolveCommand, resolveSeed, h]⟩
  · exact .inl ⟨h, by simp [resolveCommand, resolveSeed, h]⟩

theorem loadCommand_cases (s : State) :
    (digitsLegal s = false ∧ loadCommand s = raise .invalidParameter 1#8 { s with seedV := false, trace := [] }) ∨
    (digitsLegal s = true ∧ intervalLegal s = false ∧
      loadCommand s = raise .invalidParameter 2#8 { s with seedV := false, trace := [] }) ∨
    (digitsLegal s = true ∧ intervalLegal s = true ∧ loadCommand s = succeed { s with seedV := true, trace := [] }) := by
  have hd : digitsLegal { s with trace := [] } = digitsLegal s := rfl
  have hi : intervalLegal { s with trace := [] } = intervalLegal s := rfl
  cases h1 : digitsLegal s
  · exact .inl ⟨rfl, by simp [loadCommand, hd, h1]⟩
  · cases h2 : intervalLegal s
    · exact .inr (.inl ⟨rfl, rfl, by simp [loadCommand, hd, hi, h1, h2]⟩)
    · exact .inr (.inr ⟨rfl, rfl, by simp [loadCommand, hd, hi, h1, h2]⟩)

/-- The checks of `DECODE` look at `TOKLEN` and `TOKBUF` only. -/
theorem tokenFault_congr (p : Params) {s s' : State} (hl : s.tokLen = s'.tokLen) (hm : s.mem = s'.mem) :
    tokenFault p s = tokenFault p s' := by
  have ht : tokSlice s = tokSlice s' := by funext i j; simp only [tokSlice, tokChar, hm]
  unfold tokenFault
  rw [ht, hl]

theorem decodeCommand_cases (p : Params) (s : State) :
    (∃ c, tokenFault p s = some c ∧
      decodeCommand p s =
        raise .malformedTokenString c (zeroToken { s with seed := rep 16 0#8, seedV := false, trace := [] })) ∨
    (tokenFault p s = none ∧
      decodeCommand p s = succeed (storeToken { s with seed := rep 16 0#8, seedV := false, trace := [] })) := by
  have hc : tokenFault p { s with seed := rep 16 0#8, seedV := false, trace := [] } = tokenFault p s := tokenFault_congr p rfl rfl
  cases h : tokenFault p s with
  | none => exact .inr ⟨rfl, by simp only [decodeCommand, hc, h]⟩
  | some c => exact .inl ⟨c, rfl, by simp only [decodeCommand, hc, h]⟩

/-- The error codes that the first failing check of `DECODE` can report. -/
theorem tokenFault_code {p : Params} {s : State} {c : Byte} (h : tokenFault p s = some c) : c = 1#8 ∨ c = 2#8 ∨ c = 3#8 := by
  simp only [tokenFault] at h
  split at h
  · exact .inl (Option.some.inj h).symm
  · split at h
    · exact .inr (.inl (Option.some.inj h).symm)
    · split at h
      · exact .inr (.inr (Option.some.inj h).symm)
      · cases h

theorem deriveCommand_cases (p : Params) (s : State) :
    (∃ e c, deriveFault s = some (e, c) ∧ deriveCommand p s = raise e c (zeroResults s)) ∨
    (deriveFault s = none ∧ deriveCommand p s = succeed (storeResults p s)) := by
  have hc : deriveFault { s with codeV := false } = deriveFault s := rfl
  cases h : deriveFault s with
  | none => exact .inr ⟨rfl, by simp only [deriveCommand, hc, h]; rfl⟩
  | some ec => exact .inl ⟨ec.1, ec.2, rfl, by simp only [deriveCommand, hc, h]; rfl⟩

/-- The errors that the first failing check of `DERIVE` can report. -/
theorem deriveFault_code {s : State} {e : ErrorKind} {c : Byte} (h : deriveFault s = some (e, c)) :
    (e = .notReady ∧ c = 0#8) ∨ (e = .invalidParameter ∧ (c = 1#8 ∨ c = 2#8 ∨ c = 3#8)) := by
  simp only [deriveFault] at h
  repeat' split at h
  all_goals first | (cases h; simp) | cases h

/-- `DERIVE` meets no failing check exactly when its four operands are legal. -/
theorem deriveFault_eq_none {s : State} :
    deriveFault s = none ↔ s.seedV = true ∧ digitsLegal s = true ∧ intervalLegal s = true ∧ timeLegal s = true := by
  simp only [deriveFault]
  cases s.seedV <;> cases digitsLegal s <;> cases intervalLegal s <;> cases timeLegal s <;> simp

/-- What every command leaves alone, and that it completes: the engine is idle again, `DONE` is set, and the turns to come and the
replies given are as they were. -/
theorem exec_completes {i : Instr} {s t : State} (h : exec i s = .next t) :
    t.phase = .idle ∧ t.done = true ∧ t.script = s.script ∧ t.replies = s.replies := by
  cases i with
  | nop => cases h; exact ⟨rfl, rfl, rfl, rfl⟩
  | clear => cases h; exact ⟨rfl, rfl, rfl, rfl⟩
  | mac =>
    cases h
    rcases macCommand_cases Config.params s with ⟨_, e⟩ | ⟨_, e⟩ <;> rw [e] <;> exact ⟨rfl, rfl, rfl, rfl⟩
  | resolve =>
    cases h
    rcases resolveCommand_cases Config.params s with ⟨_, e⟩ | ⟨_, e⟩ <;> rw [e] <;> exact ⟨rfl, rfl, rfl, rfl⟩
  | load =>
    cases h
    rcases loadCommand_cases s with ⟨_, e⟩ | ⟨_, _, e⟩ | ⟨_, _, e⟩ <;> rw [e] <;> exact ⟨rfl, rfl, rfl, rfl⟩
  | decode =>
    cases h
    rcases decodeCommand_cases Config.params s with ⟨_, _, e⟩ | ⟨_, e⟩ <;> rw [e] <;> exact ⟨rfl, rfl, rfl, rfl⟩
  | derive =>
    cases h
    rcases deriveCommand_cases Config.params s with ⟨_, _, _, e⟩ | ⟨_, e⟩ <;> rw [e] <;> exact ⟨rfl, rfl, rfl, rfl⟩

end Sys2Proof.Machine
end

