-- ==== Sys2Proof/Laws/Memory.lean ====
section
/-! SUPPORT. The laws of the buffer memory: a read after a write, and the canonical form. -/

namespace Sys2Proof.Machine

/-- Below the first listed address nothing is listed. -/
theorem memByte_eq_unwritten {m : List Host.Cell} {a : Nat} (h : ∀ c ∈ m, a ≠ c.1) : memByte m a = unwrittenByte := by
  induction m with
  | nil => rfl
  | cons c rest ih =>
    obtain ⟨k, b⟩ := c
    have hk : k ≠ a := fun e => h (k, b) (by simp) e.symm
    simp only [memByte, if_neg hk]
    exact ih fun c hc => h c (by simp [hc])

/-- Reading the byte that was written gives the value written. -/
theorem memByte_setMemByte_same {m : List Host.Cell} (hm : m.Pairwise fun c d => c.1 < d.1) (a : Nat) (v : Byte) :
    memByte (setMemByte m a v) a = v := by
  induction m with
  | nil => by_cases hv : v = unwrittenByte <;> simp [setMemByte, memByte, hv]
  | cons c rest ih =>
    obtain ⟨k, b⟩ := c
    obtain ⟨hlt, hrest⟩ := List.pairwise_cons.mp hm
    simp only [setMemByte]
    split
    · rename_i hak
      split
      · rename_i hv
        rw [hv]
        apply memByte_eq_unwritten
        intro c hc
        rcases List.mem_cons.mp hc with rfl | hc
        · exact Nat.ne_of_lt hak
        · exact Nat.ne_of_lt (Nat.lt_trans hak (hlt c hc))
      · simp [memByte]
    · split
      · rename_i hak
        subst hak
        split
        · rename_i hv
          rw [hv]
          exact memByte_eq_unwritten fun c hc => Nat.ne_of_lt (hlt c hc)
        · simp [memByte]
      · rename_i _ hak
        simp only [memByte, if_neg fun h : k = a => hak h.symm]
        exact ih hrest

/-- A write leaves every other byte alone. -/
theorem memByte_setMemByte_other (m : List Host.Cell) {a b : Nat} (v : Byte) (hab : b ≠ a) :
    memByte (setMemByte m a v) b = memByte m b := by
  induction m with
  | nil => by_cases hv : v = unwrittenByte <;> simp [setMemByte, memByte, hv, hab.symm]
  | cons c rest ih =>
    obtain ⟨k, w⟩ := c
    simp only [setMemByte]
    split
    · split <;> simp [memByte, hab.symm]
    · split
      · rename_i hak
        subst hak
        split <;> simp [memByte, hab.symm]
      · simp only [memByte, ih]

/-- Every cell after a write was there before, or is the one written, which is not the unwritten value. -/
theorem mem_setMemByte {m : List Host.Cell} {a : Nat} {v : Byte} {c : Host.Cell} (h : c ∈ setMemByte m a v) :
    c ∈ m ∨ (c = (a, v) ∧ v ≠ unwrittenByte) := by
  induction m with
  | nil =>
    simp only [setMemByte] at h
    split at h <;> simp_all
  | cons d rest ih =>
    obtain ⟨k, w⟩ := d
    simp only [setMemByte] at h
    split at h
    · split at h <;> simp_all [or_comm, or_left_comm]
    · split at h
      · split at h
        · exact .inl (by simp [h])
        · rcases List.mem_cons.mp h with h | h
          · exact .inr ⟨h, by assumption⟩
          · exact .inl (by simp [h])
      · rcases List.mem_cons.mp h with h | h
        · simp [h]
        · rcases ih h with h | h
          · simp [h]
          · exact .inr h

/-- A write keeps the addresses strictly rising. -/
theorem setMemByte_pairwise {m : List Host.Cell} (hm : m.Pairwise fun c d => c.1 < d.1) (a : Nat) (v : Byte) :
    (setMemByte m a v).Pairwise fun c d => c.1 < d.1 := by
  induction m with
  | nil => by_cases hv : v = unwrittenByte <;> simp [setMemByte, hv]
  | cons c rest ih =>
    obtain ⟨k, b⟩ := c
    obtain ⟨hlt, hrest⟩ := List.pairwise_cons.mp hm
    simp only [setMemByte]
    split
    · rename_i hak
      split
      · exact hm
      · refine List.pairwise_cons.mpr ⟨fun d hd => ?_, hm⟩
        rcases List.mem_cons.mp hd with rfl | hd
        · exact hak
        · exact Nat.lt_trans hak (hlt d hd)
    · split
      · rename_i hak
        subst hak
        split
        · exact hrest
        · exact List.pairwise_cons.mpr ⟨hlt, hrest⟩
      · rename_i h1 h2
        refine List.pairwise_cons.mpr ⟨fun d hd => ?_, ih hrest⟩
        rcases mem_setMemByte hd with hd | ⟨rfl, -⟩
        · exact hlt d hd
        · exact Nat.lt_of_le_of_ne (Nat.le_of_not_lt h1) fun e => h2 e.symm

/-- A write to a buffer address keeps the canonical form. -/
theorem setMemByte_wf {m : List Host.Cell} (hm : Memory.wf m) {a : Nat} (ha : isBufferAddr a = true) (v : Byte) :
    Memory.wf (setMemByte m a v) := by
  refine ⟨setMemByte_pairwise hm.1 a v, fun c hc => ?_⟩
  rcases mem_setMemByte hc with hc | ⟨rfl, hv⟩
  · exact hm.2 c hc
  · exact ⟨ha, hv⟩

/-- The buffer memory after reset is in canonical form. -/
theorem reset_memory_wf : Memory.wf State.reset.mem := by decide

/-- The buffer addresses are those of `TOKBUF` and of `MSGBUF`. -/
theorem isBufferAddr_iff {a : Nat} : isBufferAddr a = true ↔ (0x080 ≤ a ∧ a < 0x0E0) ∨ (0x100 ≤ a ∧ a < 0x200) := by
  simp only [isBufferAddr, Bool.or_eq_true, Bool.and_eq_true, decide_eq_true_eq]
  exact Iff.rfl

/-- The addresses that the host port forms for a buffer are buffer addresses. -/
theorem tokBuf_isBufferAddr {i : Nat} (h : i < 96) : isBufferAddr (regBase .tokBuf + i) = true := by
  rw [isBufferAddr_iff, regBase]; omega

theorem msgBuf_isBufferAddr {i : Nat} (h : i < 256) : isBufferAddr (regBase .msgBuf + i) = true := by
  rw [isBufferAddr_iff, regBase]; omega

/-- Two memories in canonical form that read alike everywhere are the same list. -/
theorem memory_ext {m m' : List Host.Cell} (hm : Memory.wf m) (hm' : Memory.wf m') (h : ∀ a, memByte m a = memByte m' a) : m = m' := by
  induction m generalizing m' with
  | nil =>
    cases m' with
    | nil => rfl
    | cons c rest =>
      have hc := h c.1
      simp [memByte] at hc
      exact absurd hc.symm (hm'.2 c (by simp)).2
  | cons c rest ih =>
    obtain ⟨k, b⟩ := c
    obtain ⟨hlt, hrest⟩ := List.pairwise_cons.mp hm.1
    have hb := (hm.2 (k, b) (by simp)).2
    cases m' with
    | nil =>
      have hc := h k
      simp [memByte] at hc
      exact absurd hc hb
    | cons c' rest' =>
      obtain ⟨k', b'⟩ := c'
      obtain ⟨hlt', hrest'⟩ := List.pairwise_cons.mp hm'.1
      have hb' := (hm'.2 (k', b') (by simp)).2
      have hkk : k = k' := by
        rcases Nat.lt_trichotomy k k' with hk | hk | hk
        · have hc := h k
          rw [memByte, if_pos rfl, memByte_eq_unwritten] at hc
          · exact absurd hc hb
          · intro c hc
            rcases List.mem_cons.mp hc with rfl | hc
            · exact Nat.ne_of_lt hk
            · exact Nat.ne_of_lt (Nat.lt_trans hk (hlt' c hc))
        · exact hk
        · have hc := h k'
          rw [memByte_eq_unwritten, memByte, if_pos rfl] at hc
          · exact absurd hc.symm hb'
          · intro c hc
            rcases List.mem_cons.mp hc with rfl | hc
            · exact Nat.ne_of_lt hk
            · exact Nat.ne_of_lt (Nat.lt_trans hk (hlt c hc))
      subst hkk
      have hbb : b = b' := by simpa [memByte] using h k
      subst hbb
      congr 1
      refine ih ⟨hrest, fun c hc => hm.2 c (by simp [hc])⟩ ⟨hrest', fun c hc => hm'.2 c (by simp [hc])⟩ fun a => ?_
      by_cases hak : k = a
      · subst hak
        rw [memByte_eq_unwritten fun c hc => Nat.ne_of_lt (hlt c hc), memByte_eq_unwritten fun c hc => Nat.ne_of_lt (hlt' c hc)]
      · simpa [memByte, hak] using h a

end Sys2Proof.Machine
end

