-- ==== Sys2Proof/Laws/HostPort.lean ====
section
/-! SUPPORT. The laws of the host port: where an address lies, and what a host write leaves alone. -/

namespace Sys2Proof.Machine

/-- An address that lies in a register lies among its bytes. -/
theorem locate_some {a : Addr} {r : Reg} {i : Nat} (h : locate a = some (r, i)) : i < regSize r ∧ a.toNat = regBase r + i := by
  simp only [locate, Option.map_eq_some_iff] at h
  obtain ⟨q, hq, e⟩ := h
  cases e
  have := List.find?_some hq
  simp only [Bool.and_eq_true, decide_eq_true_eq] at this
  omega

/-- A host write to a byte of a register that the host may not write leaves the state as it is. -/
theorem writeReg_readOnly {r : Reg} (h : regAccess r = .r) (s : State) (i : Nat) (v : Byte) : writeReg s r i v = s := by
  cases r <;> first | rfl | cases h

@[simp] theorem writeReg_codeV (s : State) (r : Reg) (i : Nat) (v : Byte) : (writeReg s r i v).codeV = s.codeV := by cases r <;> rfl
@[simp] theorem writeReg_ver (s : State) (r : Reg) (i : Nat) (v : Byte) : (writeReg s r i v).ver = s.ver := by cases r <;> rfl
@[simp] theorem writeReg_subIdx (s : State) (r : Reg) (i : Nat) (v : Byte) : (writeReg s r i v).subIdx = s.subIdx := by cases r <;> rfl
@[simp] theorem writeReg_flags (s : State) (r : Reg) (i : Nat) (v : Byte) : (writeReg s r i v).flags = s.flags := by cases r <;> rfl
@[simp] theorem writeReg_timeBcd (s : State) (r : Reg) (i : Nat) (v : Byte) : (writeReg s r i v).timeBcd = s.timeBcd := by
  cases r <;> rfl
@[simp] theorem writeReg_codeBin (s : State) (r : Reg) (i : Nat) (v : Byte) : (writeReg s r i v).codeBin = s.codeBin := by
  cases r <;> rfl
@[simp] theorem writeReg_digest (s : State) (r : Reg) (i : Nat) (v : Byte) : (writeReg s r i v).digest = s.digest := by cases r <;> rfl
@[simp] theorem writeReg_kdOut (s : State) (r : Reg) (i : Nat) (v : Byte) : (writeReg s r i v).kdOut = s.kdOut := by cases r <;> rfl
@[simp] theorem writeReg_code (s : State) (r : Reg) (i : Nat) (v : Byte) : (writeReg s r i v).code = s.code := by cases r <;> rfl
@[simp] theorem writeReg_script (s : State) (r : Reg) (i : Nat) (v : Byte) : (writeReg s r i v).script = s.script := by cases r <;> rfl
@[simp] theorem writeReg_replies (s : State) (r : Reg) (i : Nat) (v : Byte) : (writeReg s r i v).replies = s.replies := by
  cases r <;> rfl
@[simp] theorem writeReg_trace (s : State) (r : Reg) (i : Nat) (v : Byte) : (writeReg s r i v).trace = s.trace := by cases r <;> rfl

/-- Only a write to `CMD` changes the phase, `DONE`, `ERR` or `ERRINFO`. -/
theorem writeReg_quiet {r : Reg} (h : r ≠ .cmd) (s : State) (i : Nat) (v : Byte) :
    (writeReg s r i v).phase = s.phase ∧ (writeReg s r i v).done = s.done ∧ (writeReg s r i v).err = s.err ∧
      (writeReg s r i v).errInfo = s.errInfo := by
  cases r <;> first | exact absurd rfl h | exact ⟨rfl, rfl, rfl, rfl⟩

/-- Only a write to `SEED` changes `SEEDV`, and it clears it. -/
theorem writeReg_seedV (s : State) (r : Reg) (i : Nat) (v : Byte) :
    (writeReg s r i v).seedV = if r = .seed then false else s.seedV := by
  cases r <;> rfl

/-- A host write keeps the canonical form of the buffer memory. -/
theorem writeReg_memory_wf {s : State} (hm : Memory.wf s.mem) {r : Reg} {i : Nat} (hi : i < regSize r) (v : Byte) :
    Memory.wf (writeReg s r i v).mem := by
  cases r <;> first | exact hm | exact setMemByte_wf hm (tokBuf_isBufferAddr hi) v | exact setMemByte_wf hm (msgBuf_isBufferAddr hi) v

/-- A host write anywhere keeps the canonical form of the buffer memory. -/
theorem writeByte_memory_wf {s : State} (hm : Memory.wf s.mem) (a : Addr) (v : Byte) : Memory.wf (writeByte s a v).mem := by
  simp only [writeByte]
  split
  · rename_i r i h
    exact writeReg_memory_wf hm (locate_some h).1 v
  · exact hm

end Sys2Proof.Machine
end

