-- ==== Sys2Proof/Laws/PerInstr.lean ====
section
/-! SUPPORT. Facts about each command as syntax, one lemma per constructor of `Instr`. -/

namespace Sys2Proof.Laws

/-- A command is well-formed, and its byte is a value of the opcode map, 0x00 to 0x06 (spec/30_encoding.md rules R90, R91). -/
def CommandByte.Statement (i : Instr) : Prop := i.wf = true ∧ (encode i).toNat ≤ 6

theorem CommandByte.nop : CommandByte.Statement .nop := ⟨rfl, by decide⟩

theorem CommandByte.mac : CommandByte.Statement .mac := ⟨rfl, by decide⟩

theorem CommandByte.resolve : CommandByte.Statement .resolve := ⟨rfl, by decide⟩

theorem CommandByte.decode : CommandByte.Statement .decode := ⟨rfl, by decide⟩

theorem CommandByte.derive : CommandByte.Statement .derive := ⟨rfl, by decide⟩

theorem CommandByte.load : CommandByte.Statement .load := ⟨rfl, by decide⟩

theorem CommandByte.clear : CommandByte.Statement .clear := ⟨rfl, by decide⟩

end Sys2Proof.Laws
end

