-- ==== Sys2Proof/Laws/Step.lean ====
section
/-! SUPPORT. One inversion lemma for a step: what a next state can have come from. -/

namespace Sys2Proof.Machine

/-- The engine step either runs the command its byte names or completes an illegal one. -/
theorem engineStep_cases {op : Byte} {s t : State} (h : engineStep op s = .next t) :
    (∃ i, decode op = .command i ∧ exec i s = .next t) ∨ (∃ b, decode op = .illegalCommand b ∧ t = illegalCommand b s) := by
  simp only [engineStep] at h
  cases hd : decode op with
  | command i => rw [hd] at h; exact .inl ⟨i, rfl, h⟩
  | illegalCommand b => rw [hd] at h; cases h; exact .inr ⟨b, rfl, rfl⟩

/-- The engine moves only while a command runs. -/
theorem engineTurn_cases {s t : State} (h : engineTurn s = .next t) :
    (∃ op, s.phase = .run op ∧ engineStep op s = .next t) ∨ (s.phase = .idle ∧ t = s) := by
  simp only [engineTurn] at h
  cases hp : s.phase with
  | run op => rw [hp] at h; exact .inl ⟨op, rfl, h⟩
  | idle => rw [hp] at h; cases h; exact .inr ⟨rfl, rfl⟩

/-- A step is the engine finishing a command, a host access, a reset, or nothing at all while the engine is idle. -/
theorem step_cases {s t : State} (h : step s = .next t) :
    (∃ op sc, s.phase = .run op ∧ (sc = s.script ∨ s.script = .engine :: sc) ∧ engineStep op (withTurns sc s) = .next t) ∨
    (∃ acc rest, s.script = .host acc :: rest ∧ accessEnabled s acc = true ∧ t = hostStep (withTurns rest s) acc) ∨
    (∃ rest, s.script = .reset :: rest ∧ t = resetTurn (withTurns rest s)) ∨
    (∃ sc, s.phase = .idle ∧ (sc = s.script ∨ s.script = .engine :: sc) ∧ t = withTurns sc s) := by
  simp only [step, takeTurn] at h
  split at h
  · rename_i hs
    rcases engineTurn_cases h with ⟨op, hp, he⟩ | ⟨hp, rfl⟩
    · exact .inl ⟨op, s.script, hp, .inl rfl, he⟩
    · exact .inr (.inr (.inr ⟨t.script, hp, .inl rfl, rfl⟩))
  · rename_i rest hs
    rcases engineTurn_cases h with ⟨op, hp, he⟩ | ⟨hp, rfl⟩
    · exact .inl ⟨op, rest, hp, .inr hs, he⟩
    · exact .inr (.inr (.inr ⟨rest, hp, .inr hs, rfl⟩))
  · rename_i rest hs
    cases h
    exact .inr (.inr (.inl ⟨rest, hs, rfl⟩))
  · rename_i acc rest hs
    split at h
    · rename_i ha
      cases h
      exact .inr (.inl ⟨acc, rest, hs, ha, rfl⟩)
    · rcases engineTurn_cases h with ⟨op, hp, he⟩ | ⟨hp, rfl⟩
      · exact .inl ⟨op, s.script, hp, .inl rfl, he⟩
      · exact .inr (.inr (.inr ⟨t.script, hp, .inl rfl, rfl⟩))

/-- A run of one step more: the step, then the rest of the run. -/
theorem run_succ {s t : State} (h : step s = .next t) (n : Nat) :
    Host.Core.run Sys2Proof.core (n + 1) s = Host.Core.run Sys2Proof.core n t := by
  have hs : Sys2Proof.core.step s = .next t := h
  have e := Host.Core.run.eq_2 Sys2Proof.core s n
  rw [hs] at e
  exact e

/-- A host access that is enabled takes its step. -/
theorem step_access {s : State} {acc : HostAccess} {rest : List Turn} (hs : s.script = .host acc :: rest)
    (ha : accessEnabled s acc = true) : step s = .next (hostStep (withTurns rest s) acc) := by
  simp [step, takeTurn, hs, ha]

/-- A host access that is held leaves the step to the engine. -/
theorem step_held {s : State} {op : Byte} {acc : HostAccess} {rest : List Turn} (hs : s.script = .host acc :: rest)
    (hp : s.phase = .run op) (ha : acc ≠ .read statusAddr) : step s = engineStep op s := by
  have he : accessEnabled s acc = false := by
    cases acc <;> simp_all [accessEnabled, busy]
  simp [step, takeTurn, hs, he, engineTurn, hp]

/-- With no turn to come the engine finishes a command. -/
theorem step_quiet {s : State} {op : Byte} (hs : s.script = []) (hp : s.phase = .run op) : step s = engineStep op s := by
  simp [step, takeTurn, hs, engineTurn, hp]

end Sys2Proof.Machine
end

