-- ==== Sys2Proof/Tests/Slice0.lean ====
section
/-! SUPPORT. Tests. Expected values come from spec/95_test_vectors.md (named by their ids there) or from the rule that a test names. The
commands are run at the toy cipher of that file, whose values can be checked by hand. The second part gives, for each statement of
Certificates/Slice0/Obligations.lean that has hypotheses, states and operands that meet them. -/

namespace Sys2Proof.Tests

open Sys2Proof Sys2Proof.Machine

/-! ### The toy cipher (spec/95_test_vectors.md section 2) -/

def toyEnc (k b : B16) : B16 := Vector.ofFn fun i : Fin 16 => byteAt k i.val + byteAt b ((i.val + 1) % 16) + BitVec.ofNat 8 i.val

def toyDec (k c : B16) : B16 :=
  Vector.ofFn fun j : Fin 16 =>
    byteAt c ((j.val + 15) % 16) - byteAt k ((j.val + 15) % 16) - BitVec.ofNat 8 ((j.val + 15) % 16)

def toy : Params :=
  { aesEnc := toyEnc, aesDec := toyDec, magic := bytesOf 6 [0xD8#8, 0xF5#8, 0x32#8, 0x53#8, 0x82#8, 0x89#8], trailer := 0 }

/-- A number as `n` bytes, most significant first: how the expected byte strings are written here. -/
def bytesBE (n v : Nat) : Bytes n := Vector.ofFn fun i : Fin n => BitVec.ofNat 8 (v / 256 ^ (n - 1 - i.val))

/-- The bytes 00..0f. -/
def count16 : B16 := bytesBE 16 0x000102030405060708090A0B0C0D0E0F

/-- A token string in `TOKBUF`. -/
def withToken (chars : List Byte) (s : State) : State :=
  { s with mem := (List.range chars.length).map fun i => (0x080 + i, chars.getD i 0#8) }

/-- V-DEC-6. -/
def toyToken : List Byte := decimalChars 76 2000123456789631711361611504510220441112245012024273130000700110647640541441

/-- The operands of V-DER-1. -/
def armed : State :=
  { State.reset with seedV := true, digits := 8#8, interval := 60#8, time := 1700000000#64, seed := count16,
                     serial := bytesBE 6 0x000123456789 }

def running (op : Byte) (s : State) : State := { s with phase := .run op }

/-! ### WellFormed: each check refuses an ill-formed term -/

theorem test_wf_refuses_wr_past_the_end : HostStmt.wf (.wr .msgBuf 256 0#8) = false := by decide

theorem test_wf_refuses_rd_past_the_end : HostStmt.wf (.rd .msgBuf 256) = false := by decide

theorem test_wf_refuses_wrs_past_the_end : HostStmt.wf (.wrs .msgBuf (List.replicate 257 0#8)) = false := by decide +kernel

theorem test_wf_refuses_wrt_past_the_end : HostStmt.wf (.wrt .msgBuf (List.replicate 257 'a')) = false := by decide +kernel

theorem test_wf_refuses_wrt_not_ascii : HostStmt.wf (.wrt .tokBuf ['é']) = false := by decide

theorem test_wf_refuses_rds_past_the_end : HostStmt.wf (.rds .tokBuf 385) = false := by decide

theorem test_wf_refuses_expect_past_the_end : HostStmt.wf (.expect .msgBuf (List.replicate 257 0#8)) = false := by decide +kernel

theorem test_wf_accepts : HostStmt.wf (.wr .msgBuf 255 0#8) = true ∧ HostStmt.wf (.wrt .tokBuf ['2', '0']) = true ∧
    HostStmt.wf (.run .derive 3) = true ∧ HostStmt.wf (.cmdByte 0xFF#8) = true ∧ HostStmt.wf (.wait 0) = true ∧
    HostStmt.wf (.cmdName .mac) = true := by decide

/-! ### Decode: every opcode byte written out bit by bit from spec/30_encoding.md R91 -/

theorem test_decode_nop : decode 0b00000000#8 = .command .nop := by decide

theorem test_decode_mac : decode 0b00000001#8 = .command .mac := by decide

theorem test_decode_resolve : decode 0b00000010#8 = .command .resolve := by decide

theorem test_decode_decode : decode 0b00000011#8 = .command .decode := by decide

theorem test_decode_derive : decode 0b00000100#8 = .command .derive := by decide

theorem test_decode_load : decode 0b00000101#8 = .command .load := by decide

theorem test_decode_clear : decode 0b00000110#8 = .command .clear := by decide

/-- R93: bit 3 of an opcode byte is not ignored. -/
theorem test_decode_refuses_illegal : decode 0b00000111#8 = .illegalCommand 0x07#8 ∧ decode 0b00001001#8 = .illegalCommand 0x09#8 := by
  decide

theorem test_decodeTableWord_illegal : decodeTableWord 8 0xFF = none := by decide

/-! ### Formats -/

/-- S1, V-FMT-2. -/
theorem test_hexPairs : hexPairs [0x61#8, 0x42#8, 0x63#8, 0x44#8, 0x32#8, 0x30#8] = [0xAB#8, 0xCD#8, 0x20#8] := by decide

/-- V-FMT-10. -/
theorem test_lengthBlock_32 : lengthBlock 32 = bytesBE 16 0x0100 := by decide +kernel

/-- V-FB-1. -/
theorem test_feedback : feedback toy count16 (rep 16 0xFF#8) = bytesBE 16 0x00FEFCFAF8F6F4F2F0EEECEAE8E6E4E2 := by decide +kernel

/-- V-XB-3. -/
theorem test_extractBits : extractBits (bytesBE 2 0xA55A) 7 3 = 0x5 := by decide +kernel

/-- V-DEC-3. -/
theorem test_pack : pack (decimalChars 63 123456712345671234567123456712345671234567123456712345671234567) =
    bytesBE 24 0x29CBB94E5DCA72EE5397729CBB94E5DCA72EE5397729CBB8 := by decide +kernel

/-- V-TS-9. -/
theorem test_timestamp : timestampBytes (anchorOf 1709251199 60) = bytesBE 8 0x2024022923560000 := by decide +kernel

/-- V-COD-3, V-COD-7. -/
theorem test_code : codeBytes 4294967295#32 8 = bytesBE 8 0x3934393637323935 ∧ codeBytes 1234#32 6 = bytesBE 8 0x3030313233340000 := by
  decide +kernel

/-! ### The commands -/

/-- V-CTL-2. -/
theorem test_nop : (nopCommand (running 0x00#8 State.reset)).err = 0#8 ∧
    statusByte (nopCommand (running 0x00#8 State.reset)) = 0x02#8 := by decide

/-- V-MAC-1. -/
theorem test_mac_empty : (macCommand toy State.reset).digest = bytesBE 16 0x0002040A080A14121012142A282A14F2 := by decide +kernel

/-- V-MAC-13, V-CTL-9. -/
theorem test_mac_too_long :
    (macCommand toy { State.reset with msgLen := 257#16 }).err = 3#8 ∧
      (macCommand toy { State.reset with msgLen := 257#16 }).errInfo = 4#8 := by decide +kernel

/-- V-RES-1. -/
theorem test_resolve :
    (resolveCommand toy { State.reset with encSeed := bytesBE 16 0xCCF25E389A252121212529414145D960, checksum := 0x7D05#15 }).seed =
      count16 := by decide +kernel

/-- V-RES-2. -/
theorem test_resolve_wrong_checksum :
    (resolveCommand toy { State.reset with encSeed := bytesBE 16 0xCCF25E389A252121212529414145D960, checksum := 0x7D04#15 }).err =
      2#8 := by decide +kernel

/-- V-DEC-6. -/
theorem test_decode_command :
    (decodeCommand toy (withToken toyToken { State.reset with tokLen := 76#8 })).encSeed =
        bytesBE 16 0xCCF25E389A252121212529414145D960 ∧
      (decodeCommand toy (withToken toyToken { State.reset with tokLen := 76#8 })).checksum = 0x7D05#15 := by decide +kernel

/-- V-DEC-14: the length is checked first. -/
theorem test_decode_command_length_first :
    (decodeCommand toy (withToken (toyToken.set 5 0x67#8) { State.reset with tokLen := 77#8 })).errInfo = 1#8 ∧
      (decodeCommand toy (withToken (toyToken.set 5 0x67#8) { State.reset with tokLen := 76#8 })).errInfo = 2#8 := by decide +kernel

/-- V-DER-1. -/
theorem test_derive : (deriveCommand toy armed).code = bytesBE 8 0x3336323433393239 := by decide +kernel

/-- V-DER-E4. -/
theorem test_derive_interval :
    (deriveCommand toy { State.reset with seedV := true, digits := 8#8, interval := 45#8 }).errInfo = 2#8 := by decide +kernel

/-- V-LOAD-1. -/
theorem test_load : statusByte (loadCommand { State.reset with digits := 6#8, interval := 30#8 }) = 0x0A#8 := by decide

/-- V-LOAD-3. -/
theorem test_load_digits :
    (loadCommand { State.reset with digits := 9#8, interval := 30#8, seedV := true }).errInfo = 1#8 ∧
      (loadCommand { State.reset with digits := 9#8, interval := 30#8, seedV := true }).seedV = false := by decide

/-- V-CTL-8. -/
theorem test_clear : statusByte (clearCommand armed) = 0x02#8 ∧ (clearCommand armed).time = 0#64 := by decide

/-- V-CTL-3. -/
theorem test_illegal : (illegalCommand 0x07#8 State.reset).err = 4#8 ∧ (illegalCommand 0x07#8 State.reset).errInfo = 7#8 ∧
    statusByte (illegalCommand 0x07#8 State.reset) = 0x06#8 := by decide

/-! ### The host port -/

/-- V-CTL-5: the bit at 0x00E is not stored. -/
theorem test_checksum_fifteen_bits :
    readByte (writeByte (writeByte State.reset 0x00E#9 0xFF#8) 0x00F#9 0xFF#8) 0x00E#9 = 0x7F#8 ∧
      readByte (writeByte (writeByte State.reset 0x00E#9 0xFF#8) 0x00F#9 0xFF#8) 0x00F#9 = 0xFF#8 := by decide

/-- V-LOAD-6. -/
theorem test_seed_write_clears_seedV : (writeByte armed 0x04F#9 0x0F#8).seedV = false := by decide

/-- R98: `WRT` writes ASCII codes at ascending addresses. -/
theorem test_expand_wrt :
    expand (.wrt .tokBuf ['2', 'F']) = [.host (.write 0x080#9 0x32#8), .host (.write 0x081#9 0x46#8)] := by decide

/-- R98: `RUN name` is `CMD name` and `WAIT`. -/
theorem test_expand_run :
    expand (.run .load 1) =
      [.host (.write 0x000#9 0x05#8), .host (.read 0x001#9), .engine, .host (.read 0x001#9)] := by decide

/-- R98: a program of `WR`, `EXPECT` and `RD`, V-CTL-7. -/
theorem test_script_claims :
    claimsMet [.wr .digits 0 0xFF#8, .expect .digits [0xFF#8], .rd .err 0] [0xFF#8, 0x00#8] = true ∧
      claimsMet [.wr .digits 0 0xFF#8, .expect .digits [0xFF#8]] [0xFE#8] = false := by decide

/-! ### Witnesses: states and operands that meet the hypotheses of each statement -/

/-- A token string that `DECODE` accepts, whatever `TRAILER` is: `TOKLEN` is `76 + TRAILER`. -/
def acceptable (chars : List Byte) : State :=
  withToken chars { State.reset with tokLen := BitVec.ofNat 8 (76 + Config.trailer.val) }

/-- V-DEC-9: `2000123456789` and 63 zeros. -/
def zeroToken76 : List Byte := decimalChars 13 2000123456789 ++ List.replicate 63 0x30#8

/-- Operands that `RESOLVE` accepts, whatever the cipher is: the checksum is the computed one. -/
def resolvable : State := { State.reset with checksum := computedChecksum Config.params (rep 16 0#8) }

/-- `acceptable` has the required length. -/
theorem acceptable_length (chars : List Byte) : (acceptable chars).tokLen.toNat = 76 + Config.trailer.val := by
  have := Config.trailer.isLt
  simp only [acceptable, withToken, BitVec.toNat_ofNat]
  omega

/-- `DECODE` accepts `acceptable chars` when the characters are legal. -/
theorem acceptable_fault {chars : List Byte} (hs : (tokSlice (withToken chars State.reset) 1 13).all isHexDigit = true)
    (hf : (tokSlice (withToken chars State.reset) 13 76).all isDecimalDigit = true) :
    tokenFault Config.params (acceptable chars) = none := by
  unfold tokenFault
  rw [if_neg (show ¬ (acceptable chars).tokLen.toNat ≠ Config.params.tokenLength from not_not.2 (acceptable_length chars)), if_neg,
    if_neg]
  · exact fun h => Bool.noConfusion (h.symm.trans hf)
  · exact fun h => Bool.noConfusion (h.symm.trans hs)

/-- An accepted `DECODE` ends without an error. -/
theorem decode_accepts {s : State} (h : tokenFault Config.params s = none) : (decodeCommand Config.params s).err = 0#8 := by
  rcases decodeCommand_cases Config.params s with ⟨c, hc, _⟩ | ⟨_, e⟩
  · rw [h] at hc; cases hc
  · rw [e]; rfl

/-- `resolvable` is resolved. -/
theorem resolvable_succeeds : (resolveCommand Config.params resolvable).err = 0#8 := by
  rcases resolveCommand_cases Config.params resolvable with ⟨h, _⟩ | ⟨_, e⟩
  · exact absurd rfl h
  · rw [e]; rfl

theorem witness_StepKeepsInvariant : BlockInv (running 0x01#8 State.reset) ∧
    step (running 0x01#8 State.reset) = .next (macCommand Config.params (running 0x01#8 State.reset)) :=
  ⟨⟨by decide, by decide, by decide, by decide, fun _ => ⟨rfl, rfl, rfl, rfl, rfl⟩, fun h => Bool.noConfusion h⟩, rfl⟩

theorem witness_DecodeOfEncodeIsTheCommand : Instr.wf .derive = true := rfl

theorem witness_OpcodeMapDecides : 7 ≤ (0x07#8 : Byte).toNat ∧ 7 ≤ (0xFF#8 : Byte).toNat := by decide

/-- The three ways in which the turn is the engine's. -/
theorem witness_StepRunsDecodedCommand :
    (running 0x05#8 State.reset).phase = .run 0x05#8 ∧ decode 0x05#8 = .command .load ∧ Instr.wf .load = true ∧
      (running 0x05#8 State.reset).script = [] ∧
      (withTurns [.engine] (running 0x05#8 State.reset)).script = .engine :: [] ∧
      (withTurns [.host (.read 0x002#9)] (running 0x05#8 State.reset)).script = .host (.read 0x002#9) :: [] ∧
      HostAccess.read 0x002#9 ≠ .read statusAddr := by decide

theorem witness_PlacedCommandIsNextStep : decodeTableWord 8 0x03 = some .decode := by decide

theorem witness_CommandWriteIssues :
    (withTurns [.host (.write 0x000#9 0x04#8)] State.reset).phase = .idle ∧
      (withTurns [.host (.write 0x000#9 0x04#8)] State.reset).script = .host (.write 0x000#9 0x04#8) :: [] ∧
      (running 0x04#8 State.reset).phase = .run 0x04#8 ∧ (running 0x04#8 State.reset).script = [] ∧
      (running 0x04#8 (withTurns [.engine] State.reset)).script = .engine :: [] ∧ decode 0x04#8 = .command .derive ∧
      7 ≤ (0x07#8 : Byte).toNat ∧
      (running 0x04#8 (withTurns [.host (.write 0x000#9 0x06#8)] State.reset)).script = .host (.write 0x000#9 0x06#8) :: [] := by
  decide

theorem witness_HeldAccessFollowsCommand :
    (running 0x04#8 (withTurns [.host (.write 0x049#9 0x01#8)] armed)).phase = .run 0x04#8 ∧
      (running 0x04#8 (withTurns [.host (.write 0x049#9 0x01#8)] armed)).script = .host (.write 0x049#9 0x01#8) :: [] ∧
      HostAccess.write 0x049#9 0x01#8 ≠ .read statusAddr := by decide

theorem witness_PollingSeesBusyThenDone :
    (withTurns (expand (.run .mac 2)) armed).phase = .idle ∧
      (withTurns (expand (.run .mac 2)) armed).script =
        .host (.write 0x000#9 0x01#8) ::
          (List.replicate 2 (.host (.read statusAddr)) ++ .engine :: .host (.read statusAddr) :: []) := by decide

theorem witness_ResetAbandonsCommand :
    (running 0x04#8 (withTurns [.reset, .host (.read 0x002#9)] armed)).script = .reset :: [.host (.read 0x002#9)] ∧
      [Turn.host (.read 0x002#9)] = .host (.read 0x002#9) :: [] := by decide

/-- 257 and 256 bytes. -/
theorem witness_MacResult :
    256 < ({ State.reset with msgLen := 257#16 } : State).msgLen.toNat ∧
      ({ State.reset with msgLen := 256#16 } : State).msgLen.toNat ≤ 256 := by decide

theorem witness_ResolveResult :
    top15 (macDigest Config.params (Config.aesDec (macDigest Config.params Config.magic.toList) resolvable.encSeed).toList) =
        resolvable.checksum ∧
      top15 (macDigest Config.params (Config.aesDec (macDigest Config.params Config.magic.toList)
          ({ resolvable with checksum := resolvable.checksum + 1#15 } : State).encSeed).toList) ≠
        ({ resolvable with checksum := resolvable.checksum + 1#15 } : State).checksum := by
  refine ⟨rfl, fun h => ?_⟩
  have h' : resolvable.checksum = resolvable.checksum + 1#15 := h
  revert h'
  generalize resolvable.checksum = c
  intro h'
  bv_omega

/-- `DIGITS` 0 and 9; `DIGITS` 1 and 8 with `INTERVAL` 29 and 61; `DIGITS` 8 and 1 with `INTERVAL` 30 and 60. -/
theorem witness_LoadResult :
    ((0#8 : Byte).toNat < 1 ∨ 8 < (0#8 : Byte).toNat) ∧ ((9#8 : Byte).toNat < 1 ∨ 8 < (9#8 : Byte).toNat) ∧
      (1 ≤ (1#8 : Byte).toNat ∧ (1#8 : Byte).toNat ≤ 8 ∧ (29#8 : Byte).toNat ≠ 30 ∧ (29#8 : Byte).toNat ≠ 60) ∧
      (1 ≤ (8#8 : Byte).toNat ∧ (8#8 : Byte).toNat ≤ 8 ∧ (61#8 : Byte).toNat ≠ 30 ∧ (61#8 : Byte).toNat ≠ 60) ∧
      ((30#8 : Byte).toNat = 30 ∨ (30#8 : Byte).toNat = 60) ∧ ((60#8 : Byte).toNat = 30 ∨ (60#8 : Byte).toNat = 60) := by decide

/-- One state for each outcome: `TOKLEN` too short; a bad character at each end of the serial range (1, 12); a bad character at each end
of the field range (13, 75); an acceptable token string. -/
theorem witness_DecodeResult :
    ¬ State.reset.tokLen.toNat = 76 + Config.trailer.val ∧
      (∀ i, i = 1 ∨ i = 12 →
        (acceptable (zeroToken76.set i 0x67#8)).tokLen.toNat = 76 + Config.trailer.val ∧
          ¬ ∀ j, 1 ≤ j → j ≤ 12 → isHexDigit (tokChar (acceptable (zeroToken76.set i 0x67#8)) j) = true) ∧
      (∀ i, i = 13 ∨ i = 75 →
        (acceptable (zeroToken76.set i 0x61#8)).tokLen.toNat = 76 + Config.trailer.val ∧
          (∀ j, 1 ≤ j → j ≤ 12 → isHexDigit (tokChar (acceptable (zeroToken76.set i 0x61#8)) j) = true) ∧
          ¬ ∀ j, 13 ≤ j → j ≤ 75 →
            0x30 ≤ (tokChar (acceptable (zeroToken76.set i 0x61#8)) j).toNat ∧
              (tokChar (acceptable (zeroToken76.set i 0x61#8)) j).toNat ≤ 0x39) ∧
      (acceptable zeroToken76).tokLen.toNat = 76 + Config.trailer.val ∧
      (∀ j, 1 ≤ j → j ≤ 12 → isHexDigit (tokChar (acceptable zeroToken76) j) = true) ∧
      ∀ j, 13 ≤ j → j ≤ 75 →
        0x30 ≤ (tokChar (acceptable zeroToken76) j).toNat ∧ (tokChar (acceptable zeroToken76) j).toNat ≤ 0x39 := by
  refine ⟨fun h => absurd h (show ¬ 0 = 76 + _ by omega), fun i hi => ⟨acceptable_length _, fun h => ?_⟩,
    fun i hi => ⟨acceptable_length _, fun j h1 h2 => ?_, fun h => ?_⟩, acceptable_length _, fun j h1 h2 => ?_, fun j h1 h2 => ?_⟩
  · rcases hi with rfl | rfl
    · exact absurd (h 1 (by omega) (by omega)) (by decide +kernel)
    · exact absurd (h 12 (by omega) (by omega)) (by decide +kernel)
  · rcases hi with rfl | rfl <;> interval_cases j <;> rfl
  · rcases hi with rfl | rfl
    · exact absurd (h 13 (by omega) (by omega)) (by decide +kernel)
    · exact absurd (h 75 (by omega) (by omega)) (by decide +kernel)
  · interval_cases j <;> rfl
  · interval_cases j <;> decide +kernel

/-- `DIGITS` 0 and 9, `INTERVAL` 29 and 61, `TIME` 253402300800, and the legal ends 1, 8, 30, 60, 253402300799. -/
theorem witness_DeriveResult :
    State.reset.seedV = false ∧ armed.seedV = true ∧
      ¬ (1 ≤ (0#8 : Byte).toNat ∧ (0#8 : Byte).toNat ≤ 8) ∧ ¬ (1 ≤ (9#8 : Byte).toNat ∧ (9#8 : Byte).toNat ≤ 8) ∧
      (1 ≤ (1#8 : Byte).toNat ∧ (1#8 : Byte).toNat ≤ 8) ∧ (1 ≤ (8#8 : Byte).toNat ∧ (8#8 : Byte).toNat ≤ 8) ∧
      ¬ ((29#8 : Byte).toNat = 30 ∨ (29#8 : Byte).toNat = 60) ∧ ¬ ((61#8 : Byte).toNat = 30 ∨ (61#8 : Byte).toNat = 60) ∧
      ((30#8 : Byte).toNat = 30 ∨ (30#8 : Byte).toNat = 60) ∧ ((60#8 : Byte).toNat = 30 ∨ (60#8 : Byte).toNat = 60) ∧
      ¬ (253402300800#64 : BitVec 64).toNat ≤ 253402300799 ∧ (253402300799#64 : BitVec 64).toNat ≤ 253402300799 := by decide

theorem witness_IllegalCommandResult :
    (running 0x07#8 armed).phase = .run 0x07#8 ∧ 7 ≤ (0x07#8 : Byte).toNat ∧ (running 0x07#8 armed).script = [] ∧
      (running 0xFF#8 armed).phase = .run 0xFF#8 ∧ 7 ≤ (0xFF#8 : Byte).toNat ∧ (running 0xFF#8 armed).script = [] := by decide

/-- Two messages of one byte that differ in the next byte of the buffer. -/
theorem witness_MacIgnoresStaleBytes :
    let s : State := { State.reset with msgLen := 1#16, mem := [(0x100, 0x61#8), (0x101, 0x62#8)] }
    let s' : State := { State.reset with msgLen := 1#16, mem := [(0x100, 0x61#8), (0x101, 0x63#8)] }
    s.msgLen = s'.msgLen ∧ (∀ i, i < s.msgLen.toNat → msgByte s i = msgByte s' i) ∧
      exec .mac s = .next (macCommand Config.params s) ∧ exec .mac s' = .next (macCommand Config.params s') :=
  ⟨rfl, by decide, rfl, rfl⟩

theorem witness_MacChainsFeedbackSteps :
    encReq (rep 16 0#8) (rep 16 0xFF#8) ∈ macTrace toy [] ∧ (macTrace toy [])[0]?.isSome = true ∧
      (macTrace toy [])[0 + 1]?.isSome = true := by decide +kernel

theorem witness_LengthBlockIsBitLength : 0 < 16 ∧ 15 < 16 ∧ 256 ≤ 256 ∧ 13 < 14 := by decide

theorem witness_ResolveTraceIsNineRequests : exec .resolve resolvable = .next (resolveCommand Config.params resolvable) := rfl

/-- The toy cipher's decryption inverts its encryption (spec/95_test_vectors.md section 2). -/
theorem toy_inverse : toy.Inverse := by
  intro k b
  have cancel : ∀ x y z : Byte, x + y + z - x - z = y := fun x y z => by bv_omega
  apply Vector.ext
  intro j hj
  have hi : (j + 15) % 16 < 16 := Nat.mod_lt _ (by decide)
  have hb : byteAt (toyEnc k b) ((j + 15) % 16) =
      byteAt k ((j + 15) % 16) + byteAt b (((j + 15) % 16 + 1) % 16) + BitVec.ofNat 8 ((j + 15) % 16) := by
    simp [byteAt, toyEnc, hi]
  have hd : (toyDec k (toyEnc k b))[j] =
      byteAt (toyEnc k b) ((j + 15) % 16) - byteAt k ((j + 15) % 16) - BitVec.ofNat 8 ((j + 15) % 16) := by
    simp [toyDec]
  have hj' : ((j + 15) % 16 + 1) % 16 = j := by omega
  show (toyDec k (toyEnc k b))[j] = b[j]
  rw [hd, hb, cancel, hj']
  simp [byteAt, hj]

theorem witness_ResolveInvertsEncoding :
    toy.Inverse ∧
      ({ State.reset with encSeed := toy.aesEnc (macDigest toy toy.magic.toList) count16,
                          checksum := top15 (macDigest toy count16.toList) } : State).encSeed =
        toy.aesEnc (macDigest toy toy.magic.toList) count16 ∧
      ({ State.reset with encSeed := toy.aesEnc (macDigest toy toy.magic.toList) count16,
                          checksum := top15 (macDigest toy count16.toList) } : State).checksum =
        top15 (macDigest toy count16.toList) := ⟨toy_inverse, rfl, rfl⟩

theorem witness_ChangedChecksumFailsResolve :
    exec .resolve resolvable = .next (resolveCommand Config.params resolvable) ∧
      (resolveCommand Config.params resolvable).err = 0#8 ∧ resolvable.checksum + 1#15 ≠ resolvable.checksum ∧
      exec .resolve { resolvable with checksum := resolvable.checksum + 1#15 } =
        .next (resolveCommand Config.params { resolvable with checksum := resolvable.checksum + 1#15 }) := by
  refine ⟨rfl, resolvable_succeeds, ?_, rfl⟩
  generalize resolvable.checksum = c
  bv_omega

theorem witness_PackPlacesThreeBitsPerCharacter :
    (List.replicate 63 (0x37#8 : Byte)).length = 63 ∧ (List.replicate 63 (0x37#8 : Byte))[62]? = some 0x37#8 ∧ 2 < 3 ∧
      189 ≤ 191 ∧ 191 < 192 := by decide

theorem witness_ExtractBitsReadsRange : 14 < 15 := by decide

/-- Two token strings that differ in characters 61 and 75, which fill bits of the two unused ranges only. -/
theorem witness_DecodeIgnoresUnusedBits :
    exec .decode (acceptable zeroToken76) = .next (decodeCommand Config.params (acceptable zeroToken76)) ∧
      exec .decode (acceptable ((zeroToken76.set 61 0x37#8).set 75 0x37#8)) =
        .next (decodeCommand Config.params (acceptable ((zeroToken76.set 61 0x37#8).set 75 0x37#8))) ∧
      (decodeCommand Config.params (acceptable zeroToken76)).err = 0#8 ∧
      (decodeCommand Config.params (acceptable ((zeroToken76.set 61 0x37#8).set 75 0x37#8))).err = 0#8 ∧
      ∀ b, b < 144 ∨ (159 ≤ b ∧ b < 174) →
        bufferBit (pack (tokSlice (acceptable zeroToken76) 13 76)) b =
          bufferBit (pack (tokSlice (acceptable ((zeroToken76.set 61 0x37#8).set 75 0x37#8)) 13 76)) b := by
  refine ⟨rfl, rfl, decode_accepts (acceptable_fault (by decide +kernel) (by decide +kernel)),
    decode_accepts (acceptable_fault (by decide +kernel) (by decide +kernel)), ?_⟩
  have h : ∀ b, b < 174 → b < 144 ∨ 159 ≤ b →
      bufferBit (pack (tokSlice (withToken zeroToken76 State.reset) 13 76)) b =
        bufferBit (pack (tokSlice (withToken ((zeroToken76.set 61 0x37#8).set 75 0x37#8) State.reset) 13 76)) b := by
    decide +kernel
  exact fun b hb => h b (by omega) (by omega)

theorem witness_WindowArithmetic : (30 = 30 ∨ 30 = 60) ∧ (60 = 30 ∨ 60 = 60) := by decide

/-- V-DER-1 at 1700000000 and at 1699999980, one bucket and one superwindow. -/
theorem witness_SameWindowSameResults :
    exec .derive armed = .next (deriveCommand Config.params armed) ∧
      exec .derive { armed with time := 1699999980#64 } =
        .next (deriveCommand Config.params { armed with time := 1699999980#64 }) ∧
      (deriveCommand Config.params armed).err = 0#8 ∧
      (deriveCommand Config.params { armed with time := 1699999980#64 }).err = 0#8 ∧
      armed.time.toNat / armed.interval.toNat = (1699999980#64 : BitVec 64).toNat / armed.interval.toNat ∧
      armed.time.toNat / (4 * armed.interval.toNat) = (1699999980#64 : BitVec 64).toNat / (4 * armed.interval.toNat) :=
  ⟨rfl, rfl, rfl, rfl, by decide, by decide⟩

/-- Two states that differ in `SERIAL[0]` and `VER`. -/
theorem witness_DeriveDependsOnItsOperands :
    let s' : State := { armed with serial := bytesBE 6 0xFF0123456789, ver := 0x32#8 }
    armed.seedV = s'.seedV ∧ armed.seed = s'.seed ∧ (∀ k, 2 ≤ k → k < 6 → byteAt armed.serial k = byteAt s'.serial k) ∧
      armed.digits = s'.digits ∧ armed.interval = s'.interval ∧ armed.time = s'.time ∧
      exec .derive armed = .next (deriveCommand Config.params armed) ∧
      exec .derive s' = .next (deriveCommand Config.params s') := by
  refine ⟨rfl, rfl, fun k h1 h2 => ?_, rfl, rfl, rfl, rfl, rfl⟩
  interval_cases k <;> decide +kernel

theorem witness_CodeShape : (1 ≤ 1 ∧ 1 ≤ 8 ∧ 0 < 1 ∧ 1 ≤ 1 ∧ 7 < 8) ∧ (1 ≤ 8 ∧ 8 ≤ 8 ∧ 7 < 8) := by decide

theorem witness_CodeIsDecimalTail : (1 ≤ 1 ∧ 1 ≤ 8) ∧ (1 ≤ 8 ∧ 8 ≤ 8) := by decide

theorem witness_CalendarRange : 0 ≤ 253402300799 ∧ 253402300799 ≤ 253402300799 := by decide

theorem witness_BcdIsHexPair : 99 < 100 := by decide

theorem witness_TimestampIsHexPairsOfDate : 253402300799 ≤ 253402300799 ∧ (30 = 30 ∨ 30 = 60) ∧ (60 = 30 ∨ 60 = 60) := by decide

/-- A boundary index for each of the four ranges, at the lengths 2 and 8. -/
theorem witness_DerivationBlockLayout :
    [0x23#8, 0x45#8, 0x67#8, (0x89#8 : Byte)].length = 4 ∧ 2 ∈ [2, 3, 4, 5, 8] ∧ 8 ∈ [2, 3, 4, 5, 8] ∧ 1 < 2 ∧ 7 < 8 ∧
      (2 ≤ 2 ∧ 2 < 8) ∧ (2 ≤ 7 ∧ 7 < 8) ∧ 3 < 4 ∧ (12 ≤ 12 ∧ 15 < 16) := by decide

theorem witness_WordIsBigEndianSlice : 3 < 4 := by decide

theorem witness_CipherRequestCounts :
    exec .mac armed = .next (macCommand Config.params armed) ∧ 7 ≤ (0x07#8 : Byte).toNat ∧
      engineStep 0x07#8 armed = .next (illegalCommand 0x07#8 armed) := ⟨rfl, by decide, rfl⟩

theorem witness_ErrorsOfEachCommand :
    exec .load State.reset = .next (loadCommand State.reset) ∧ (loadCommand State.reset).err = 3#8 ∧
      7 ≤ (0xFF#8 : Byte).toNat ∧ engineStep 0xFF#8 armed = .next (illegalCommand 0xFF#8 armed) :=
  ⟨rfl, rfl, by decide, rfl⟩

/-- One failing run of each command that can fail. -/
theorem witness_FailingCommandsFailClosed :
    (exec .decode armed = .next (decodeCommand Config.params armed) ∧ (decodeCommand Config.params armed).err ≠ 0#8) ∧
      (∃ t, exec .resolve { resolvable with checksum := resolvable.checksum + 1#15 } = .next t ∧ t.err ≠ 0#8) ∧
      (exec .derive State.reset = .next (deriveCommand Config.params State.reset) ∧
        (deriveCommand Config.params State.reset).err ≠ 0#8) ∧
      (exec .mac { armed with msgLen := 257#16 } = .next (macCommand Config.params { armed with msgLen := 257#16 }) ∧
        (macCommand Config.params { armed with msgLen := 257#16 }).err ≠ 0#8) ∧
      (exec .load State.reset = .next (loadCommand State.reset) ∧ (loadCommand State.reset).err ≠ 0#8) ∧
      (7 ≤ (0x07#8 : Byte).toNat ∧ engineStep 0x07#8 armed = .next (illegalCommand 0x07#8 armed)) := by
  refine ⟨⟨rfl, ?_⟩, ⟨_, rfl, ?_⟩, ⟨rfl, by decide⟩, ⟨rfl, ?_⟩, ⟨rfl, by decide⟩, by decide, rfl⟩
  · rcases decodeCommand_cases Config.params armed with ⟨c, _, e⟩ | ⟨h, _⟩
    · rw [e]; exact (by decide : (1#8 : Byte) ≠ 0#8)
    · unfold tokenFault at h
      rw [if_pos (show armed.tokLen.toNat ≠ Config.params.tokenLength from
        (show (0 : Nat) ≠ 76 + Config.trailer.val by omega))] at h
      cases h
  · rcases resolveCommand_cases Config.params { resolvable with checksum := resolvable.checksum + 1#15 } with ⟨_, e⟩ | ⟨h, _⟩
    · rw [e]; decide
    · exact absurd h witness_ResolveResult.2
  · rcases macCommand_cases Config.params { armed with msgLen := 257#16 } with ⟨_, e⟩ | ⟨h, _⟩
    · rw [e]; decide
    · exact absurd h (by decide)

theorem witness_CommandsWriteOnlyTheirRegisters :
    exec .resolve armed = .next (resolveCommand Config.params armed) ∧ writesReg .resolve .time = false ∧
      isOutcomeReg .time = false ∧ locate 0x010#9 = some (.time, 0) ∧ Instr.derive ∈ [Instr.nop, .mac, .derive] ∧
      Instr.load ∈ [Instr.nop, .mac, .resolve, .decode, .load] ∧ Instr.resolve ≠ .clear ∧ Instr.resolve ≠ .mac :=
  ⟨rfl, by decide, by decide, by decide, by decide, by decide, by decide, by decide⟩

/-- `SEEDV` set by a `LOAD`, cleared by a write to the last byte of `SEED`, and a `DERIVE` without it. -/
theorem witness_SeedValidOnlyWhenVerified :
    (step (running 0x05#8 { armed with seedV := false }) = .next (loadCommand (running 0x05#8 { armed with seedV := false })) ∧
        armed.seedV = true ∧ (loadCommand (running 0x05#8 { armed with seedV := false })).seedV = true) ∧
      (step (withTurns [.host (.write 0x04F#9 0#8)] armed) = .next (writeByte armed 0x04F#9 0#8) ∧
        (writeByte armed 0x04F#9 0#8).seedV = false) ∧
      step (withTurns [.reset] armed) = .next State.reset ∧ exec .clear armed = .next (clearCommand armed) ∧
      exec .decode armed = .next (decodeCommand Config.params armed) ∧
      exec .resolve armed = .next (resolveCommand Config.params armed) ∧ exec .load armed = .next (loadCommand armed) ∧
      (0x040 ≤ (0x040#9 : Addr).toNat ∧ (0x04F#9 : Addr).toNat ≤ 0x04F) ∧
      exec .derive State.reset = .next (deriveCommand Config.params State.reset) :=
  ⟨⟨rfl, rfl, rfl⟩, ⟨rfl, by decide⟩, rfl, rfl, rfl, rfl, rfl, by decide, rfl⟩

theorem witness_CodeValidOnlyFromVerifiedSeed :
    step (running 0x04#8 armed) = .next (deriveCommand Config.params (running 0x04#8 armed)) ∧
      (running 0x04#8 armed).codeV = false ∧ (deriveCommand Config.params (running 0x04#8 armed)).codeV = true :=
  ⟨rfl, rfl, rfl⟩

theorem witness_HostReadReturnsRegisterByte :
    (0x002#9 : Addr) ≠ statusAddr ∧ isReserved 0x00B#9 = true ∧ isReserved 0x0FF#9 = true ∧ 95 < regSize .tokBuf ∧
      regAccess .tokBuf ≠ .w ∧ 255 < regSize .msgBuf ∧ regAccess .msgBuf ≠ .w ∧
      (withTurns [.host (.read 0x1FF#9)] armed).script = .host (.read 0x1FF#9) :: [] ∧
      accessEnabled (withTurns [.host (.read 0x1FF#9)] armed) (.read 0x1FF#9) = true ∧
      accessEnabled (running 0x01#8 armed) (.read 0x001#9) = true := by decide

theorem witness_HostWriteStoresByte :
    Memory.wf ({ armed with mem := [(0x080, 1#8), (0x1FF, 2#8)] } : State).mem ∧ 1 < regSize .checksum ∧
      regAccess .checksum = .rw ∧ 255 < regSize .msgBuf ∧ regAccess .msgBuf = .rw ∧ (0x010#9 : Addr) ≠ regAddr .msgBuf 255 ∧
      (0x010#9 : Addr) ≠ statusAddr ∧ 0 < regSize .ver ∧ regAccess .ver = .r ∧ isReserved 0x078#9 = true := by decide

theorem witness_ReservedLocationsAreNotStorage : isReserved 0x00B#9 = true ∧ isReserved 0x0E0#9 = true := by decide

theorem witness_AddressMapHasNoOverlap :
    0 < regSize .cmd ∧ 255 < regSize .msgBuf ∧ locate 0x0DF#9 = some (.tokBuf, 95) ∧ locate 0x100#9 = some (.msgBuf, 0) := by decide

theorem witness_RegistersAreBigEndian : 5 < 6 ∧ 15 < 16 ∧ 7 < 8 ∧ 95 < 96 ∧ 255 < 256 := by decide

theorem witness_WriteStringStoresBytes :
    let s := withTurns (expand (.wrs .checksum [0xFF#8, 0xFE#8])) armed
    s.phase = .idle ∧ Memory.wf s.mem ∧ regAccess .checksum = .rw ∧ [0xFF#8, (0xFE#8 : Byte)].length ≤ regSize .checksum ∧
      s.script = expand (.wrs .checksum [0xFF#8, 0xFE#8]) ++ [] ∧ [0xFF#8, (0xFE#8 : Byte)][1]? = some 0xFE#8 := by decide

theorem witness_TokenStringGivesCode :
    let s := withTurns [commandTurn 0x03#8, commandTurn 0x02#8, commandTurn 0x04#8] (acceptable zeroToken76)
    s.phase = .idle ∧ s.script = [commandTurn 0x03#8, commandTurn 0x02#8, commandTurn 0x04#8] ∧
      s.tokLen.toNat = 76 + Config.trailer.val ∧ (∀ i, 1 ≤ i → i ≤ 12 → isHexDigit (tokChar s i) = true) ∧
      (∀ i, 13 ≤ i → i ≤ 75 → isDecimalDigit (tokChar s i) = true) ∧ s.time.toNat ≤ 253402300799 := by
  refine ⟨rfl, rfl, acceptable_length zeroToken76, fun i h1 h2 => ?_, fun i h1 h2 => ?_, show (0 : Nat) ≤ 253402300799 by decide⟩
  · interval_cases i <;> rfl
  · interval_cases i <;> rfl

theorem witness_LoadedSeedGivesCode :
    let s := withTurns [commandTurn 0x05#8, commandTurn 0x04#8] armed
    s.phase = .idle ∧ s.script = [commandTurn 0x05#8, commandTurn 0x04#8] ∧ 1 ≤ s.digits.toNat ∧ s.digits.toNat ≤ 8 ∧
      (s.interval = 30#8 ∨ s.interval = 60#8) ∧ s.time.toNat ≤ 253402300799 := by decide

end Sys2Proof.Tests
end

section
/-! PROOFS of the statements about the state (spec/10_state.md): its reset values and the `STATUS` byte, the address map, the
command byte, and the two validity flags `SEEDV` and `CODEV`. -/

namespace Sys2Proof.Machine

/-! ### Byte strings, numbers and memory of zeros -/

/-- A byte string of zeros reads zero at every index, also beyond its end. -/
theorem byteAt_rep_zero (n i : Nat) : byteAt (rep n 0#8) i = 0#8 := by
  rcases Nat.lt_or_ge i n with h | h
  · exact byteAt_rep 0#8 h
  · exact byteAt_of_le _ h

@[simp] theorem numByte_zero (w k : Nat) : numByte (0#w) k = 0#8 := by
  simp [numByte]

/-! ### The `STATUS` byte -/

theorem busy_iff {s : State} : busy s = true ↔ s.phase ≠ .idle := by
  cases h : s.phase <;> simp [busy, h]

theorem errF_iff {s : State} : errF s = true ↔ s.err ≠ 0#8 := by
  simp [errF]

/-- The layout of R41 over any five flags: each has a bit of its own, and the upper three bits are 0. -/
theorem flagBits_getLsbD : ∀ codeV seedV errF done busy : Bool,
    let status : Byte :=
      0#3 ++ BitVec.ofBool codeV ++ BitVec.ofBool seedV ++ BitVec.ofBool errF ++ BitVec.ofBool done ++ BitVec.ofBool busy
    status.getLsbD 0 = busy ∧ status.getLsbD 1 = done ∧ status.getLsbD 2 = errF ∧ status.getLsbD 3 = seedV ∧
      status.getLsbD 4 = codeV ∧ status.getLsbD 5 = false ∧ status.getLsbD 6 = false ∧ status.getLsbD 7 = false := by
  decide

theorem statusByte_getLsbD (s : State) :
    (statusByte s).getLsbD 0 = busy s ∧ (statusByte s).getLsbD 1 = s.done ∧ (statusByte s).getLsbD 2 = errF s ∧
      (statusByte s).getLsbD 3 = s.seedV ∧ (statusByte s).getLsbD 4 = s.codeV ∧ (statusByte s).getLsbD 5 = false ∧
      (statusByte s).getLsbD 6 = false ∧ (statusByte s).getLsbD 7 = false :=
  flagBits_getLsbD s.codeV s.seedV (errF s) s.done (busy s)

/-- Settles O56: the flags behind the bits are `busy_iff` and `errF_iff`. -/
theorem statusBits : Obligations.StatusBits := by
  intro s
  obtain ⟨h0, h1, h2, h3, h4, hrest⟩ := statusByte_getLsbD s
  exact ⟨by rw [h0, busy_iff], h1, by rw [h2, errF_iff], h3, h4, hrest⟩

/-! ### The address map -/

/-- Two registers that share no host address. -/
def regsApart (r q : Reg) : Prop := regBase r + regSize r ≤ regBase q ∨ regBase q + regSize q ≤ regBase r

theorem mem_mapRows (r : Reg) : r ∈ mapRows := by
  cases r <;> decide

/-- The rows of R61 rise and leave no row's bytes inside another's. -/
theorem mapRows_pairwise_regsApart : mapRows.Pairwise regsApart := by
  unfold regsApart; decide

theorem regsApart_of_ne {r q : Reg} (h : r ≠ q) : regsApart r q :=
  have : Std.Symm regsApart := ⟨fun _ _ => Or.symm⟩
  mapRows_pairwise_regsApart.forall (mem_mapRows r) (mem_mapRows q) h

/-- Every register lies below 0x200, so its addresses have 9 bits (R60). -/
theorem regBase_add_regSize_le (r : Reg) : regBase r + regSize r ≤ 0x200 := by
  cases r <;> decide

theorem regAddr_toNat {r : Reg} {k : Nat} (h : k < regSize r) : (regAddr r k).toNat = regBase r + k := by
  have := regBase_add_regSize_le r
  simp only [regAddr, BitVec.toNat_ofNat]
  omega

theorem eq_regAddr {a : Addr} {r : Reg} {k : Nat} (h : a.toNat = regBase r + k) : a = regAddr r k := by
  rw [regAddr, ← h, BitVec.ofNat_toNat, BitVec.setWidth_eq]

/-- An address among the bytes of a register is found at that register and at no other. -/
theorem locate_of_mem {a : Addr} {r : Reg} {k : Nat} (hk : k < regSize r) (ha : a.toNat = regBase r + k) :
    locate a = some (r, k) := by
  cases hl : locate a with
  | none =>
    simp only [locate, Option.map_eq_none_iff, List.find?_eq_none, Bool.and_eq_true, decide_eq_true_eq] at hl
    exact absurd ⟨by omega, by omega⟩ (hl r (mem_mapRows r))
  | some found =>
    obtain ⟨q, j⟩ := found
    obtain ⟨hj, hq⟩ := locate_some hl
    have hqr : q = r := by
      by_contra hne
      rcases regsApart_of_ne hne with hd | hd <;> omega
    subst hqr
    have hjk : j = k := by omega
    rw [hjk]

theorem locate_regAddr {r : Reg} {k : Nat} (h : k < regSize r) : locate (regAddr r k) = some (r, k) :=
  locate_of_mem h (regAddr_toNat h)

/-- Settles O54: the rows are apart, so the byte's own register is the one found; and what is found names the address. -/
theorem addressMapHasNoOverlap : Obligations.AddressMapHasNoOverlap := by
  refine ⟨fun r k h => locate_regAddr h, fun a r k h => ?_⟩
  obtain ⟨hk, ha⟩ := locate_some h
  exact ⟨hk, eq_regAddr ha⟩

/-- An address lies in `SEED` exactly when it is one of 0x040 to 0x04F (R61). -/
theorem locate_seed_iff {a : Addr} : (∃ k, locate a = some (.seed, k)) ↔ 0x040 ≤ a.toNat ∧ a.toNat ≤ 0x04F := by
  constructor
  · rintro ⟨k, h⟩
    obtain ⟨hk, ha⟩ := locate_some h
    simp only [regSize, regBase] at hk ha
    omega
  · rintro ⟨hlo, hhi⟩
    exact ⟨a.toNat - 0x040, locate_of_mem (by simp only [regSize]; omega) (by simp only [regBase]; omega)⟩

/-! ### What each command does to `SEEDV` and `CODEV` -/

theorem digitsLegal_iff {s : State} : digitsLegal s = true ↔ 1 ≤ s.digits.toNat ∧ s.digits.toNat ≤ 8 := by
  simp [digitsLegal]

theorem intervalLegal_iff {s : State} : intervalLegal s = true ↔ s.interval = 30#8 ∨ s.interval = 60#8 := by
  simp [intervalLegal]

theorem timeLegal_iff {s : State} : timeLegal s = true ↔ s.time.toNat ≤ 253402300799 :=
  decide_eq_true_iff

/-- No error kind has the code 0 (R231). -/
@[simp] theorem errorCode_ne_zero (e : ErrorKind) : errorCode e ≠ 0#8 := by
  cases e <;> decide

theorem exec_derive_eq (s : State) : exec .derive s = .next (deriveCommand Config.params s) := rfl

theorem exec_load_eq (s : State) : exec .load s = .next (loadCommand s) := rfl

/-- `DERIVE` without a verified seed is refused before any other check (R43, R192). -/
theorem exec_derive_not_ready {s : State} (h : s.seedV = false) : exec .derive s = .next (raise .notReady 0#8 (zeroResults s)) := by
  have hf : deriveFault s = some (.notReady, 0#8) := by simp [deriveFault, h]
  rcases deriveCommand_cases Config.params s with ⟨e, c, hc, he⟩ | ⟨hc, _⟩
  · cases hf.symm.trans hc
    rw [exec_derive_eq, he]
  · cases hf.symm.trans hc

/-- `LOAD` checks `DIGITS` first (R158). -/
theorem exec_load_digits_illegal {s : State} (h : digitsLegal s = false) :
    exec .load s = .next (raise .invalidParameter 1#8 { s with seedV := false, trace := [] }) := by
  rcases loadCommand_cases s with ⟨_, he⟩ | ⟨hd, _⟩ | ⟨hd, _⟩
  · rw [exec_load_eq, he]
  · cases h.symm.trans hd
  · cases h.symm.trans hd

theorem exec_clear_seedV {s t : State} (h : exec .clear s = .next t) : t.seedV = false := by
  cases h; rfl

theorem exec_decode_seedV {s t : State} (h : exec .decode s = .next t) : t.seedV = false := by
  cases h
  rcases decodeCommand_cases Config.params s with ⟨_, _, e⟩ | ⟨_, e⟩ <;> simp [e]

theorem exec_resolve_seedV_iff {s t : State} (h : exec .resolve s = .next t) : t.seedV = true ↔ t.err = 0#8 := by
  cases h
  rcases resolveCommand_cases Config.params s with ⟨_, e⟩ | ⟨_, e⟩ <;> simp [e]

theorem exec_load_seedV_iff {s t : State} (h : exec .load s = .next t) : t.seedV = true ↔ t.err = 0#8 := by
  cases h
  rcases loadCommand_cases s with ⟨_, e⟩ | ⟨_, _, e⟩ | ⟨_, _, e⟩ <;> simp [e]

/-- `NOP`, `MAC` and `DERIVE` leave `SEEDV` as it was (R43). -/
theorem exec_keeps_seedV {i : Instr} (hi : i ∈ [Instr.nop, .mac, .derive]) {s t : State} (h : exec i s = .next t) :
    t.seedV = s.seedV := by
  simp only [List.mem_cons, List.not_mem_nil, or_false] at hi
  rcases hi with rfl | rfl | rfl
  · cases h; rfl
  · cases h
    rcases macCommand_cases Config.params s with ⟨_, e⟩ | ⟨_, e⟩ <;> simp [e]
  · cases h
    rcases deriveCommand_cases Config.params s with ⟨_, _, _, e⟩ | ⟨_, e⟩ <;> simp [e]

/-- The commands other than `DERIVE` and `CLEAR` leave `CODEV` as it was (R41). -/
theorem exec_keeps_codeV {i : Instr} (hi : i ∈ [Instr.nop, .mac, .resolve, .decode, .load]) {s t : State}
    (h : exec i s = .next t) : t.codeV = s.codeV := by
  simp only [List.mem_cons, List.not_mem_nil, or_false] at hi
  rcases hi with rfl | rfl | rfl | rfl | rfl
  · cases h; rfl
  · cases h
    rcases macCommand_cases Config.params s with ⟨_, e⟩ | ⟨_, e⟩ <;> simp [e]
  · cases h
    rcases resolveCommand_cases Config.params s with ⟨_, e⟩ | ⟨_, e⟩ <;> simp [e]
  · cases h
    rcases decodeCommand_cases Config.params s with ⟨_, _, e⟩ | ⟨_, e⟩ <;> simp [e]
  · cases h
    rcases loadCommand_cases s with ⟨_, e⟩ | ⟨_, _, e⟩ | ⟨_, _, e⟩ <;> simp [e]

theorem exec_clear_codeV {s t : State} (h : exec .clear s = .next t) : t.codeV = false := by
  cases h; rfl

/-- `DERIVE` leaves `CODEV` set exactly when it met no failing check, and then it ends without an error (R192). -/
theorem exec_derive_codeV {s t : State} (h : exec .derive s = .next t) (hv : t.codeV = true) :
    deriveFault s = none ∧ t.err = 0#8 := by
  cases h
  rcases deriveCommand_cases Config.params s with ⟨_, _, _, e⟩ | ⟨hf, e⟩
  · simp [e] at hv
  · exact ⟨hf, by rw [e, succeed_err]⟩

@[simp] theorem illegalCommand_seedV (op : Byte) (s : State) : (illegalCommand op s).seedV = s.seedV := rfl

@[simp] theorem illegalCommand_codeV (op : Byte) (s : State) : (illegalCommand op s).codeV = s.codeV := rfl

/-! ### Reset -/

@[simp] theorem reset_seedV : State.reset.seedV = false := rfl

@[simp] theorem reset_codeV : State.reset.codeV = false := rfl

/-- After reset every byte of every register reads 0x00 (R48). -/
theorem regByte_reset (r : Reg) (k : Nat) : regByte State.reset r k = 0#8 := by
  cases r with
  | timeBcd | serial | encSeed | seed | digest | kdOut | code => exact byteAt_rep_zero _ k
  | msgLen | flags | checksum | time | codeBin => exact numByte_zero _ _
  | tokBuf | msgBuf | cmd | status | err | errInfo | tokLen | ver | digits | interval | subIdx => rfl

theorem readByte_reset (a : Addr) : readByte State.reset a = 0#8 := by
  unfold readByte
  split
  · exact regByte_reset _ _
  · rfl

/-- Settles O1: the fields by evaluation, the host addresses by `readByte_reset`, the failing commands by their first check. -/
theorem resetStateIsZero : Obligations.ResetStateIsZero := by
  refine ⟨rfl, rfl, rfl, rfl, rfl, rfl, rfl, rfl, rfl, rfl, rfl, rfl, rfl, rfl, rfl, rfl, rfl, rfl, rfl, rfl, rfl, rfl, rfl, rfl,
    fun _ _ => rfl, fun _ _ => rfl, readByte_reset, ?_, ?_⟩
  · exact ⟨_, exec_derive_not_ready reset_seedV, by simp⟩
  · exact ⟨_, exec_load_digits_illegal rfl, by simp⟩

/-- Settles O2: after reset no error stands, nothing runs, and the results are the zeros that `CODEV = 0` asks for. -/
theorem resetMeetsInvariant : Obligations.ResetMeetsInvariant where
  memory := reset_memory_wf
  errorPair := rfl
  errorDone h := absurd rfl h
  running h := absurd rfl (busy_iff.mp h)
  withoutCode _ := ⟨rfl, rfl, rfl, rfl, rfl⟩
  withCode h := absurd h Bool.false_ne_true

/-! ### The command byte and the engine step -/

/-- A byte that decodes to a command is that command's byte (R91). -/
theorem eq_encode_of_decode {op : Byte} {i : Instr} (h : decode op = .command i) : op = encode i := by
  have hrows : ∀ row ∈ opcodeMap, row.1 = encode row.2 := by decide
  unfold decode at h
  split at h
  · rename_i row hf
    cases h
    rw [← hrows row (List.mem_of_find?_eq_some hf)]
    have hop : (row.1 == op) = true := List.find?_some (p := fun row : Byte × Instr => row.1 == op) hf
    exact (beq_iff_eq.mp hop).symm
  · cases h

theorem engineStep_of_decode {op : Byte} {i : Instr} (h : decode op = .command i) (s : State) : engineStep op s = exec i s := by
  simp only [engineStep, h]

/-- The table reader answers what the decoder says of the row's byte. -/
theorem decode_tableByte {nbits w : Nat} {i : Instr} (h : decodeTableWord nbits w = some i) :
    decode (tableByte nbits w) = .command i := by
  unfold decodeTableWord at h
  split at h
  · rename_i j hd
    cases h
    exact hd
  · cases h

/-- A placed command takes the engine's turn that was placed with it and leaves the turns after it. -/
theorem step_placeCommand (op : Byte) (s : State) : step (placeCommand op s) = engineStep op { s with phase := .run op } := rfl

/-- Settles O9: the step runs the placed byte, which is the byte of the decoded command. -/
theorem placedCommandIsNextStep : Obligations.PlacedCommandIsNextStep := by
  intro s nbits w i h
  have hd := decode_tableByte h
  calc step (s.withFetchWord nbits w)
      = engineStep (tableByte nbits w) { s with phase := .run (tableByte nbits w) } := step_placeCommand _ s
    _ = exec i { s with phase := .run (tableByte nbits w) } := engineStep_of_decode hd _
    _ = exec i { s with phase := .run (encode i) } := by rw [eq_encode_of_decode hd]

/-! ### `SEEDV` along a step -/

/-- What an engine step can do to `SEEDV`: keep it; set it to whether `RESOLVE` or `LOAD` succeeded; clear it in `DECODE` or
`CLEAR`. -/
theorem engineStep_seedV_cases {op : Byte} {s t : State} (h : engineStep op s = .next t) :
    t.seedV = s.seedV ∨ ((op = 0x02#8 ∨ op = 0x05#8) ∧ (t.seedV = true ↔ t.err = 0#8)) ∨
      ((op = 0x03#8 ∨ op = 0x06#8) ∧ t.seedV = false) := by
  rcases engineStep_cases h with ⟨i, hd, hx⟩ | ⟨b, _, rfl⟩
  · rw [eq_encode_of_decode hd]
    cases i with
    | nop | mac | derive => exact .inl (exec_keeps_seedV (by decide) hx)
    | resolve => exact .inr (.inl ⟨.inl rfl, exec_resolve_seedV_iff hx⟩)
    | load => exact .inr (.inl ⟨.inr rfl, exec_load_seedV_iff hx⟩)
    | decode => exact .inr (.inr ⟨.inl rfl, exec_decode_seedV hx⟩)
    | clear => exact .inr (.inr ⟨.inr rfl, exec_clear_seedV hx⟩)
  · exact .inl (illegalCommand_seedV b s)

/-- A host write clears `SEEDV` at the addresses of `SEED` and keeps it elsewhere (R43, R63 c). -/
theorem writeByte_seedV (s : State) (a : Addr) (v : Byte) :
    (writeByte s a v).seedV = if 0x040 ≤ a.toNat ∧ a.toNat ≤ 0x04F then false else s.seedV := by
  split
  · rename_i hr
    obtain ⟨k, hl⟩ := locate_seed_iff.mpr hr
    simp only [writeByte, hl, writeReg_seedV, if_pos]
  · rename_i hr
    unfold writeByte
    split
    · rename_i r k hl
      have hne : r ≠ .seed := fun e => hr (locate_seed_iff.mp ⟨k, e ▸ hl⟩)
      rw [writeReg_seedV, if_neg hne]
    · rfl

@[simp] theorem writeByte_codeV (s : State) (a : Addr) (v : Byte) : (writeByte s a v).codeV = s.codeV := by
  unfold writeByte
  split
  · exact writeReg_codeV s _ _ v
  · rfl

@[simp] theorem hostStep_codeV (s : State) (acc : HostAccess) : (hostStep s acc).codeV = s.codeV := by
  cases acc with
  | read a => rfl
  | write a v => exact writeByte_codeV s a v

/-- What a step can do to `SEEDV`, with the event of R43 behind each change. -/
theorem step_seedV_cases {s t : State} (h : step s = .next t) :
    t.seedV = s.seedV ∨ ((s.phase = .run 0x02#8 ∨ s.phase = .run 0x05#8) ∧ (t.seedV = true ↔ t.err = 0#8)) ∨
      ((s.phase = .run 0x03#8 ∨ s.phase = .run 0x06#8) ∧ t.seedV = false) ∨
      ((∃ rest, s.script = .reset :: rest) ∧ t.seedV = false) ∨
      ((∃ (a : Addr) (v : Byte) (rest : List Turn),
        s.script = .host (.write a v) :: rest ∧ 0x040 ≤ a.toNat ∧ a.toNat ≤ 0x04F) ∧ t.seedV = false) := by
  rcases step_cases h with ⟨op, sc, hp, _, he⟩ | ⟨acc, rest, hs, _, rfl⟩ | ⟨rest, hs, rfl⟩ | ⟨sc, _, _, rfl⟩
  · have hrun : ∀ b, op = b → s.phase = .run b := fun b hb => hb ▸ hp
    rcases engineStep_seedV_cases he with hk | ⟨hop, hv⟩ | ⟨hop, hv⟩
    · exact .inl hk
    · exact .inr (.inl ⟨hop.imp (hrun _) (hrun _), hv⟩)
    · exact .inr (.inr (.inl ⟨hop.imp (hrun _) (hrun _), hv⟩))
  · cases acc with
    | read a => exact .inl rfl
    | write a v =>
      have hw := writeByte_seedV (withTurns rest s) a v
      split at hw
      · rename_i hr
        exact .inr (.inr (.inr (.inr ⟨⟨a, v, rest, hs, hr⟩, hw⟩)))
      · exact .inl hw
  · exact .inr (.inr (.inr (.inl ⟨⟨rest, hs⟩, rfl⟩)))
  · exact .inl rfl

/-- `SEEDV` rises only with a `RESOLVE` or `LOAD` that succeeds. -/
theorem step_sets_seedV {s t : State} (h : step s = .next t) (hs : s.seedV = false) (ht : t.seedV = true) :
    (s.phase = .run 0x02#8 ∨ s.phase = .run 0x05#8) ∧ t.err = 0#8 := by
  rcases step_seedV_cases h with hk | ⟨hp, hv⟩ | ⟨_, hv⟩ | ⟨_, hv⟩ | ⟨_, hv⟩
  · simp [hk, hs] at ht
  · exact ⟨hp, hv.mp ht⟩
  all_goals simp [hv] at ht

/-- `SEEDV` falls only with reset, `CLEAR`, `DECODE`, a failing `RESOLVE` or `LOAD`, or a host write to `SEED`. -/
theorem step_clears_seedV {s t : State} (h : step s = .next t) (hs : s.seedV = true) (ht : t.seedV = false) :
    (∃ rest, s.script = .reset :: rest) ∨ s.phase = .run 0x06#8 ∨ s.phase = .run 0x03#8 ∨
      ((s.phase = .run 0x02#8 ∨ s.phase = .run 0x05#8) ∧ t.err ≠ 0#8) ∨
      ∃ (a : Addr) (v : Byte) (rest : List Turn),
        s.script = .host (.write a v) :: rest ∧ 0x040 ≤ a.toNat ∧ a.toNat ≤ 0x04F := by
  rcases step_seedV_cases h with hk | ⟨hp, hv⟩ | ⟨hp | hp, _⟩ | ⟨hr, _⟩ | ⟨hw, _⟩
  · simp [hk, hs] at ht
  · exact .inr (.inr (.inr (.inl ⟨hp, fun he => by simp [hv.mpr he] at ht⟩)))
  · exact .inr (.inr (.inl hp))
  · exact .inr (.inl hp)
  · exact .inl hr
  · exact .inr (.inr (.inr (.inr hw)))

/-- A reset turn is taken whatever the phase is (R261). -/
theorem step_reset {s : State} {rest : List Turn} (hs : s.script = .reset :: rest) :
    step s = .next (resetTurn (withTurns rest s)) := by
  simp only [step, takeTurn, hs]

/-- Settles O49: the two directions on a step from `step_seedV_cases`, the listed events one by one from the commands' lemmas. -/
theorem seedValidOnlyWhenVerified : Obligations.SeedValidOnlyWhenVerified := by
  refine ⟨fun s t h => ⟨step_sets_seedV h, step_clears_seedV h⟩, fun s t rest hs h => ?reset, fun s t => exec_clear_seedV,
    fun s t => exec_decode_seedV, fun s t => exec_resolve_seedV_iff, fun s t => exec_load_seedV_iff,
    fun s a v hlo hhi => ?seedWrite, fun s t hv h => ?derive⟩
  case reset =>
    cases (step_reset hs).symm.trans h
    rfl
  case seedWrite => rw [writeByte_seedV, if_pos ⟨hlo, hhi⟩]
  case derive =>
    cases (exec_derive_not_ready hv).symm.trans h
    exact ⟨rfl, rfl⟩

/-! ### `CODEV` along a step -/

/-- An engine step raises `CODEV` only as a `DERIVE` that met no failing check. -/
theorem engineStep_sets_codeV {op : Byte} {s t : State} (h : engineStep op s = .next t) (hs : s.codeV = false)
    (ht : t.codeV = true) : op = 0x04#8 ∧ deriveFault s = none ∧ t.err = 0#8 := by
  rcases engineStep_cases h with ⟨i, hd, hx⟩ | ⟨b, _, rfl⟩
  · have changed : t.codeV ≠ s.codeV := by simp [hs, ht]
    cases i with
    | derive => exact ⟨eq_encode_of_decode hd, exec_derive_codeV hx ht⟩
    | clear => simp [exec_clear_codeV hx] at ht
    | nop | mac | resolve | decode | load => exact absurd (exec_keeps_codeV (by decide) hx) changed
  · simp [hs] at ht

/-- A step raises `CODEV` only as the engine step of a `DERIVE` that met no failing check. -/
theorem step_sets_codeV {s t : State} (h : step s = .next t) (hs : s.codeV = false) (ht : t.codeV = true) :
    s.phase = .run 0x04#8 ∧ deriveFault s = none ∧ t.err = 0#8 := by
  rcases step_cases h with ⟨op, sc, hp, _, he⟩ | ⟨acc, rest, _, _, rfl⟩ | ⟨rest, _, rfl⟩ | ⟨sc, _, _, rfl⟩
  · obtain ⟨rfl, hf, herr⟩ := engineStep_sets_codeV he hs ht
    exact ⟨hp, hf, herr⟩
  all_goals simp [hs] at ht

/-- Settles O50: the checks that `DERIVE` passed are the conditions named. -/
theorem codeValidOnlyFromVerifiedSeed : Obligations.CodeValidOnlyFromVerifiedSeed := by
  intro s t h hs ht
  obtain ⟨hp, hf, herr⟩ := step_sets_codeV h hs ht
  obtain ⟨hv, hd, hi, htime⟩ := deriveFault_eq_none.mp hf
  obtain ⟨hlo, hhi⟩ := digitsLegal_iff.mp hd
  exact ⟨hp, hv, hlo, hhi, intervalLegal_iff.mp hi, timeLegal_iff.mp htime, herr⟩

end Sys2Proof.Machine
end

section
/-! PROOFS of the statements about the host port and the order of steps (spec/20_memory.md): which step a state takes, what a host
read returns, what a host write stores, and how polling sees a command. -/

namespace Sys2Proof.Machine

/-! ### The engine's step completes -/

theorem exec_total (i : Instr) (s : State) : ∃ t, exec i s = .next t := by
  cases i with
  | nop | mac | resolve | decode | derive | load | clear => exact ⟨_, rfl⟩

theorem engineStep_total (op : Byte) (s : State) : ∃ t, engineStep op s = .next t := by
  cases hd : decode op with
  | command i => rw [engineStep_of_decode hd]; exact exec_total i s
  | illegalCommand b => exact ⟨illegalCommand b s, by simp only [engineStep, hd]⟩

/-- An engine step ends its command, legal or not: the engine is idle, `DONE` is set, and nothing of the host's is used up (R70). -/
theorem engineStep_completes {op : Byte} {s t : State} (h : engineStep op s = .next t) :
    t.phase = .idle ∧ t.done = true ∧ t.script = s.script ∧ t.replies = s.replies := by
  rcases engineStep_cases h with ⟨i, _, hx⟩ | ⟨b, _, rfl⟩
  · exact exec_completes hx
  · exact ⟨rfl, rfl, rfl, rfl⟩

theorem engineTurn_total (s : State) : ∃ t, engineTurn s = .next t := by
  unfold engineTurn
  split
  · exact engineStep_total _ s
  · exact ⟨s, rfl⟩

/-! ### Which step a state takes -/

theorem not_busy_iff {s : State} : busy s = false ↔ s.phase = .idle := by
  cases h : s.phase <;> simp [busy, h]

theorem accessEnabled_status (s : State) : accessEnabled s (.read statusAddr) = true := by
  simp [accessEnabled]

/-- Every access but a read of `STATUS` is enabled only while the engine is idle (R64). -/
theorem accessEnabled_iff_idle {s : State} {acc : HostAccess} (h : acc ≠ .read statusAddr) :
    accessEnabled s acc = true ↔ s.phase = .idle := by
  cases acc with
  | read a =>
    have ha : a ≠ statusAddr := fun e => h (congrArg HostAccess.read e)
    simp [accessEnabled, ha, not_busy_iff]
  | write a v => simp [accessEnabled, not_busy_iff]

/-- While the engine is idle every access is enabled (R62, R63). -/
theorem accessEnabled_of_idle {s : State} (h : s.phase = .idle) (acc : HostAccess) : accessEnabled s acc = true := by
  by_cases ha : acc = .read statusAddr
  · rw [ha, accessEnabled_status]
  · exact (accessEnabled_iff_idle ha).mpr h

/-- The engine's own turn is used up by its step. -/
theorem step_engine {s : State} {op : Byte} {rest : List Turn} (hs : s.script = .engine :: rest) (hp : s.phase = .run op) :
    step s = engineStep op (withTurns rest s) := by
  simp [step, takeTurn, hs, engineTurn, hp]

/-- Settles O4: whoever moves, the move has a next state. -/
theorem everyStateHasANextState : Obligations.EveryStateHasANextState := by
  intro s
  unfold step takeTurn
  split
  · exact engineTurn_total s
  · exact engineTurn_total _
  · exact ⟨_, rfl⟩
  · split
    · exact ⟨_, rfl⟩
    · exact engineTurn_total s

/-- Settles O8: each of the three turns is the engine step of `op`, which is `exec` of the decoded command. -/
theorem stepRunsDecodedCommand : Obligations.StepRunsDecodedCommand := by
  intro s op i hp hd _
  refine ⟨fun hs => ?_, fun rest hs => ?_, fun acc rest hs ha => ?_⟩
  · rw [step_quiet hs hp, engineStep_of_decode hd]
  · rw [step_engine hs hp, engineStep_of_decode hd]
  · rw [step_held hs hp ha, engineStep_of_decode hd]

/-- Settles O11: the engine step completes and keeps the turns, so the held access still stands first and is now enabled. -/
theorem heldAccessFollowsCommand : Obligations.HeldAccessFollowsCommand := by
  intro s op acc rest hp hs ha
  obtain ⟨t, ht⟩ := engineStep_total op s
  obtain ⟨hidle, _, hscript, hreplies⟩ := engineStep_completes ht
  exact ⟨t, ht, (step_held hs hp ha).trans ht, hidle, hscript, hreplies,
    step_access (hscript.trans hs) (accessEnabled_of_idle hidle acc)⟩

/-! ### Addresses -/

theorem locate_eq_none_iff {a : Addr} :
    locate a = none ↔ ∀ r ∈ mapRows, ¬ (regBase r ≤ a.toNat ∧ a.toNat < regBase r + regSize r) := by
  simp [locate]

/-- The ranges listed as reserved are what the rows of the address map leave over (R61, R65). -/
theorem isReserved_iff_locate {a : Addr} : isReserved a = true ↔ locate a = none := by
  have := a.isLt
  simp only [locate_eq_none_iff, mapRows, List.forall_mem_cons, List.not_mem_nil, false_imp_iff, implies_true, and_true, regBase,
    regSize, isReserved, Bool.or_eq_true, Bool.and_eq_true, decide_eq_true_eq]
  omega

theorem regAddr_inj {r q : Reg} {k j : Nat} (hk : k < regSize r) (hj : j < regSize q) (h : regAddr r k = regAddr q j) :
    r = q ∧ k = j := by
  have hl := locate_regAddr hk
  rw [h, locate_regAddr hj] at hl
  cases hl
  exact ⟨rfl, rfl⟩

/-- The one byte whose bit 7 is not storage is the first of `CHECKSUM` (R31, R63 b). -/
theorem regAddr_eq_0x00E_iff {r : Reg} {k : Nat} (hk : k < regSize r) : regAddr r k = 0x00E#9 ↔ r = .checksum ∧ k = 0 := by
  constructor
  · exact regAddr_inj (q := .checksum) (j := 0) hk (by decide)
  · rintro ⟨rfl, rfl⟩; rfl

/-! ### Host reads -/

theorem readByte_regAddr (s : State) {r : Reg} {k : Nat} (h : k < regSize r) : readByte s (regAddr r k) = regByte s r k := by
  simp only [readByte, locate_regAddr h]

theorem readByte_reserved (s : State) {a : Addr} (h : isReserved a = true) : readByte s a = 0#8 := by
  simp only [readByte, isReserved_iff_locate.mp h]

theorem readByte_status (s : State) : readByte s statusAddr = statusByte s :=
  readByte_regAddr s (r := .status) (k := 0) (by decide)

theorem readByte_cmd (s : State) : readByte s 0x000#9 = 0#8 :=
  readByte_regAddr s (r := .cmd) (k := 0) (by decide)

/-- What a host reads does not depend on the turns to come. -/
@[simp] theorem readByte_withTurns (turns : List Turn) (s : State) (a : Addr) : readByte (withTurns turns s) a = readByte s a := by
  have hreg : ∀ r k, regByte (withTurns turns s) r k = regByte s r k := fun r _ => by cases r <;> rfl
  simp only [readByte, hreg]

/-- The state after reads have been answered: their turns are used up and the bytes given to the host, nothing else. -/
def answered (turns : List Turn) (bytes : List Byte) (s : State) : State :=
  { s with script := turns, replies := s.replies ++ bytes }

/-- A host read that is enabled answers and changes no state (R62). -/
theorem step_read {s : State} {a : Addr} {rest : List Turn} (hs : s.script = .host (.read a) :: rest)
    (ha : accessEnabled s (.read a) = true) : step s = .next (answered rest [readByte s a] s) := by
  rw [step_access hs ha, hostStep, readByte_withTurns]
  rfl

theorem step_read_status {s : State} {rest : List Turn} (hs : s.script = .host (.read statusAddr) :: rest) :
    step s = .next (answered rest [statusByte s] s) := by
  rw [step_read hs (accessEnabled_status s), readByte_status]

/-- Settles O51: `readByte_regAddr` and `readByte_reserved` give the bytes, `step_read` the step. -/
theorem hostReadReturnsRegisterByte : Obligations.HostReadReturnsRegisterByte := by
  intro s
  exact ⟨accessEnabled_status s, readByte_status s, fun a ha => accessEnabled_iff_idle fun h => ha (HostAccess.read.inj h),
    readByte_cmd s, fun a => readByte_reserved s, fun r k hk _ => readByte_regAddr s hk, fun a rest => step_read⟩

/-! ### Host writes -/

theorem writeByte_regAddr (s : State) {r : Reg} {k : Nat} (h : k < regSize r) (v : Byte) :
    writeByte s (regAddr r k) v = writeReg s r k v := by
  simp only [writeByte, locate_regAddr h]

theorem writeByte_cmd (s : State) (v : Byte) : writeByte s 0x000#9 v = issue v s :=
  writeByte_regAddr s (r := .cmd) (k := 0) (by decide) v

theorem writeByte_reserved (s : State) {a : Addr} (h : isReserved a = true) (v : Byte) : writeByte s a v = s := by
  simp only [writeByte, isReserved_iff_locate.mp h]

/-- Settles O53: what no row of the address map covers is neither read nor written. -/
theorem reservedLocationsAreNotStorage : Obligations.ReservedLocationsAreNotStorage := fun _ =>
  ⟨isReserved_iff_locate, fun h s v => ⟨readByte_reserved s h, writeByte_reserved s h v⟩⟩

section
variable (s : State) {r : Reg} (i : Nat) (v : Byte)

theorem writeReg_tokLen (h : r ≠ .tokLen) : (writeReg s r i v).tokLen = s.tokLen := by
  cases r <;> first | rfl | exact absurd rfl h

theorem writeReg_msgLen (h : r ≠ .msgLen) : (writeReg s r i v).msgLen = s.msgLen := by
  cases r <;> first | rfl | exact absurd rfl h

theorem writeReg_digits (h : r ≠ .digits) : (writeReg s r i v).digits = s.digits := by
  cases r <;> first | rfl | exact absurd rfl h

theorem writeReg_interval (h : r ≠ .interval) : (writeReg s r i v).interval = s.interval := by
  cases r <;> first | rfl | exact absurd rfl h

theorem writeReg_checksum (h : r ≠ .checksum) : (writeReg s r i v).checksum = s.checksum := by
  cases r <;> first | rfl | exact absurd rfl h

theorem writeReg_time (h : r ≠ .time) : (writeReg s r i v).time = s.time := by
  cases r <;> first | rfl | exact absurd rfl h

theorem writeReg_serial (h : r ≠ .serial) : (writeReg s r i v).serial = s.serial := by
  cases r <;> first | rfl | exact absurd rfl h

theorem writeReg_encSeed (h : r ≠ .encSeed) : (writeReg s r i v).encSeed = s.encSeed := by
  cases r <;> first | rfl | exact absurd rfl h

theorem writeReg_seed (h : r ≠ .seed) : (writeReg s r i v).seed = s.seed := by
  cases r <;> first | rfl | exact absurd rfl h

/-- A host write changes the buffer memory at its own address at most. -/
theorem memByte_writeReg_other {a : Nat} (h : a ≠ regBase r + i) : memByte (writeReg s r i v).mem a = memByte s.mem a := by
  cases r <;> first | rfl | exact memByte_setMemByte_other s.mem v h

end

/-- A whole byte of a number, written and read back. -/
theorem numByte_setNumByte_whole {w : Nat} (x : BitVec w) {k : Nat} (h : 8 * k + 8 ≤ w) (b : Byte) :
    numByte (setNumByte x k b) k = b := by
  have hones : (BitVec.allOnes (w - 8 * k)).setWidth 8 = BitVec.allOnes 8 := by
    ext i hi
    have hin : i < w - 8 * k := by omega
    simp only [BitVec.getElem_setWidth, BitVec.getLsbD_allOnes, BitVec.getElem_allOnes, hin, decide_true]
  rw [numByte_setNumByte_same, hones, BitVec.and_allOnes]

/-- A byte the host may write reads back as written, but for the bit of `CHECKSUM` that is not storage (R31, R63 b). -/
theorem regByte_writeReg_same {s : State} (hm : Memory.wf s.mem) {r : Reg} (hr : regAccess r = .rw) {k : Nat} (hk : k < regSize r)
    (v : Byte) : regByte (writeReg s r k v) r k = if r = .checksum ∧ k = 0 then v &&& 0x7F#8 else v := by
  cases r with
  | cmd | status | err | errInfo | ver | subIdx | flags | timeBcd | codeBin | digest | kdOut | code => cases hr
  | tokLen | digits | interval => rfl
  | msgLen | time =>
    simp only [regSize] at hk
    exact numByte_setNumByte_whole _ (by omega) v
  | checksum =>
    simp only [regSize] at hk
    obtain rfl | rfl : k = 0 ∨ k = 1 := by omega
    · exact numByte_setNumByte_same s.checksum 1 v
    · exact numByte_setNumByte_whole s.checksum (k := 0) (by decide) v
  | serial | encSeed | seed => exact byteAt_setByteAt_same _ hk v
  | tokBuf | msgBuf => exact memByte_setMemByte_same hm.1 _ v

/-- A write to one byte of a register leaves the register's other bytes alone. -/
theorem regByte_writeReg_otherByte (s : State) {r : Reg} {j k : Nat} (hj : j < regSize r) (hk : k < regSize r) (hjk : j ≠ k)
    (v : Byte) : regByte (writeReg s r k v) r j = regByte s r j := by
  cases r with
  | status | err | errInfo | ver | subIdx | flags | timeBcd | codeBin | digest | kdOut | code => rfl
  | cmd | tokLen | digits | interval =>
    simp only [regSize] at hj hk
    omega
  | msgLen | checksum | time =>
    simp only [regSize] at hj hk
    exact numByte_setNumByte_other _ (by omega) v
  | serial | encSeed | seed => exact byteAt_setByteAt_other _ hjk v
  | tokBuf | msgBuf => exact memByte_setMemByte_other s.mem v (by omega)

/-- A write to one register leaves the bytes of every other alone, `STATUS` apart and `CMD`, which issues a command, apart. -/
theorem regByte_writeReg_otherReg (s : State) {r q : Reg} {j k : Nat} (hj : j < regSize q) (hk : k < regSize r) (hqr : q ≠ r)
    (hq : q ≠ .status) (hr : r ≠ .cmd) (v : Byte) : regByte (writeReg s r k v) q j = regByte s q j := by
  obtain ⟨_, _, herr, hinfo⟩ := writeReg_quiet hr s k v
  have hapart : regBase q + j ≠ regBase r + k := by
    rcases regsApart_of_ne hqr with h | h <;> omega
  cases q with
  | status => exact absurd rfl hq
  | cmd => rfl
  | err => exact herr
  | errInfo => exact hinfo
  | ver | subIdx | flags | timeBcd | codeBin | digest | kdOut | code => simp [regByte]
  | tokLen => exact writeReg_tokLen s k v hqr.symm
  | msgLen => rw [regByte, writeReg_msgLen s k v hqr.symm, regByte]
  | digits => exact writeReg_digits s k v hqr.symm
  | interval => exact writeReg_interval s k v hqr.symm
  | checksum => rw [regByte, writeReg_checksum s k v hqr.symm, regByte]
  | time => rw [regByte, writeReg_time s k v hqr.symm, regByte]
  | serial => rw [regByte, writeReg_serial s k v hqr.symm, regByte]
  | encSeed => rw [regByte, writeReg_encSeed s k v hqr.symm, regByte]
  | seed => rw [regByte, writeReg_seed s k v hqr.symm, regByte]
  | tokBuf | msgBuf => exact memByte_writeReg_other s k v hapart

/-- The byte at the address that was written. -/
theorem readByte_writeByte_same {s : State} (hm : Memory.wf s.mem) {r : Reg} (hr : regAccess r = .rw) {k : Nat} (hk : k < regSize r)
    (v : Byte) :
    readByte (writeByte s (regAddr r k) v) (regAddr r k) = if regAddr r k = 0x00E#9 then v &&& 0x7F#8 else v := by
  rw [writeByte_regAddr s hk, readByte_regAddr _ hk, regByte_writeReg_same hm hr hk]
  simp only [regAddr_eq_0x00E_iff hk]

/-- A host write shows at its own address and in `STATUS` at most. -/
theorem readByte_writeByte_other (s : State) {r : Reg} (hr : r ≠ .cmd) {k : Nat} (hk : k < regSize r) (v : Byte) {b : Addr}
    (hb : b ≠ regAddr r k) (hstatus : b ≠ statusAddr) : readByte (writeByte s (regAddr r k) v) b = readByte s b := by
  rw [writeByte_regAddr s hk]
  cases hl : locate b with
  | none => simp only [readByte, hl]
  | some found =>
    obtain ⟨q, j⟩ := found
    obtain ⟨hj, hbase⟩ := locate_some hl
    obtain rfl := eq_regAddr hbase
    rw [readByte_regAddr _ hj, readByte_regAddr _ hj]
    by_cases hqr : q = r
    · subst hqr
      exact regByte_writeReg_otherByte s hj hk (fun hjk => hb (by rw [hjk])) v
    · have hq : q ≠ .status := by
        rintro rfl
        obtain rfl : j = 0 := Nat.lt_one_iff.mp hj
        exact hstatus rfl
      exact regByte_writeReg_otherReg s hj hk hqr hq hr v

/-- Settles O52: the two `readByte_writeByte` laws for what is read afterwards, the laws of `writeReg` for the flags. -/
theorem hostWriteStoresByte : Obligations.HostWriteStoresByte := by
  intro s hm
  refine ⟨fun a v => accessEnabled_iff_idle (by simp), writeByte_cmd s, fun r k v hk hr => ?stored,
    fun r k v hk hr => ?readOnly, fun a v h => writeByte_reserved s h v⟩
  case stored =>
    have hcmd : r ≠ .cmd := by rintro rfl; cases hr
    obtain ⟨hphase, hdone, _, _⟩ := writeReg_quiet hcmd s k v
    refine ⟨readByte_writeByte_same hm hr hk v, fun b hb hstatus => readByte_writeByte_other s hcmd hk v hb hstatus, ?_⟩
    rw [writeByte_regAddr s hk]
    exact ⟨hphase, hdone, writeReg_codeV s r k v, writeReg_seedV s r k v⟩
  case readOnly => rw [writeByte_regAddr s hk, writeReg_readOnly hr]

/-! ### Polling `STATUS` -/

/-- `STATUS` while a command runs, after the zeros that its issue wrote (R72, R92). -/
theorem statusByte_issue (op : Byte) (s : State) :
    statusByte (issue op s) = 0#3 ++ BitVec.ofBool s.codeV ++ BitVec.ofBool s.seedV ++ 0b001#3 := by
  have hflags : ∀ codeV seedV : Bool,
      (0#3 ++ BitVec.ofBool codeV ++ BitVec.ofBool seedV ++ BitVec.ofBool false ++ BitVec.ofBool false ++ BitVec.ofBool true : Byte)
        = 0#3 ++ BitVec.ofBool codeV ++ BitVec.ofBool seedV ++ 0b001#3 := by decide
  exact hflags s.codeV s.seedV

/-- Reads answered in two parts are answered together. -/
theorem answered_answered (turns turns' : List Turn) (bytes bytes' : List Byte) (s : State) :
    answered turns bytes (answered turns' bytes' s) = answered turns (bytes' ++ bytes) s := by
  simp [answered]

/-- Any number of `STATUS` reads are answered one after the other, in any phase, each with the same byte. -/
theorem run_statusReads (m : Nat) {n : Nat} {s : State} {rest : List Turn}
    (hs : s.script = List.replicate n (.host (.read statusAddr)) ++ rest) :
    Host.Core.run Sys2Proof.core (n + m) s =
      Host.Core.run Sys2Proof.core m (answered rest (List.replicate n (statusByte s)) s) := by
  induction n generalizing s with
  | zero =>
    have hrest : rest = s.script := hs.symm
    simp [answered, hrest]
  | succ n ih => rw [Nat.add_right_comm, run_succ (step_read_status hs), ih rfl, answered_answered]; rfl

/-- The engine's step and the `STATUS` read after it: the command is complete, and the read sees that (R72). -/
theorem run_engine_status {s : State} {op : Byte} {rest : List Turn} (hp : s.phase = .run op)
    (hs : s.script = .engine :: .host (.read statusAddr) :: rest) :
    ∃ t, Host.Core.run Sys2Proof.core 2 s = .next (answered rest [statusByte t] t) ∧ t.phase = .idle ∧ t.done = true ∧
      t.replies = s.replies := by
  obtain ⟨t, ht⟩ := engineStep_total op (withTurns (.host (.read statusAddr) :: rest) s)
  obtain ⟨hidle, hdone, hscript, hreplies⟩ := engineStep_completes ht
  have hengine : step s = .next t := (step_engine hs hp).trans ht
  exact ⟨t, (run_succ hengine 1).trans (run_succ (step_read_status hscript) 0), hidle, hdone, hreplies⟩

/-- A write to `CMD` while the engine is idle is the step that issues the command (R92). -/
theorem step_issue {s : State} {op : Byte} {rest : List Turn} (hp : s.phase = .idle)
    (hs : s.script = .host (.write 0x000#9 op) :: rest) : step s = .next (issue op (withTurns rest s)) := by
  rw [step_access hs (accessEnabled_of_idle hp _), hostStep, writeByte_cmd]

/-- A running command that the host polls: `n` reads see the byte of the running state, and the read after the engine's step sees the
command complete (R72). -/
theorem run_poll {s : State} {op : Byte} {n : Nat} {rest : List Turn} (hp : s.phase = .run op)
    (hs : s.script = List.replicate n (.host (.read statusAddr)) ++ .engine :: .host (.read statusAddr) :: rest) :
    ∃ t, Host.Core.run Sys2Proof.core (n + 2) s = .next (answered rest [statusByte t] t) ∧ t.phase = .idle ∧ t.done = true ∧
      t.replies = s.replies ++ List.replicate n (statusByte s) := by
  obtain ⟨t, hrun, hcomplete⟩ := run_engine_status (rest := rest)
    (s := answered (.engine :: .host (.read statusAddr) :: rest) (List.replicate n (statusByte s)) s) hp rfl
  exact ⟨t, (run_statusReads 2 hs).trans hrun, hcomplete⟩

/-- Settles O12: the issue, then `run_poll` from the issued state. -/
theorem pollingSeesBusyThenDone : Obligations.PollingSeesBusyThenDone := by
  intro s op n rest hp hs
  obtain ⟨t, hrun, hidle, hdone, hreplies⟩ := run_poll (n := n) (rest := rest) (s := issue op (withTurns _ s)) rfl rfl
  obtain ⟨hbusyBit, hdoneBit, _⟩ := statusByte_getLsbD t
  rw [statusByte_issue] at hreplies
  exact ⟨answered rest [statusByte t] t, statusByte t, (run_succ (step_issue hp hs) (n + 2)).trans hrun,
    congrArg (· ++ [statusByte t]) hreplies, hbusyBit.trans (not_busy_iff.mpr hidle), hdoneBit.trans hdone, rfl, hidle⟩

/-! ### Byte order -/

theorem numByte_toNat {w : Nat} (v : BitVec w) (k : Nat) : (numByte v k).toNat = v.toNat / 256 ^ k % 256 := by
  simp [numByte, Nat.shiftRight_eq_div_pow, Nat.pow_mul]

/-- Where a register's bytes are those of a number, most significant first, its first `n` bytes are the number without its lower
bytes. -/
theorem readNumber_eq_div {s : State} {r : Reg} {w : Nat} {v : BitVec w} (hw : w ≤ 8 * regSize r)
    (hbytes : ∀ i, regByte s r i = numByte v (regSize r - 1 - i)) {n : Nat} (hn : n ≤ regSize r) :
    readNumber s r n = v.toNat / 256 ^ (regSize r - n) := by
  induction n with
  | zero =>
    have hv : v.toNat < 256 ^ regSize r :=
      calc v.toNat < 2 ^ w := v.isLt
        _ ≤ 2 ^ (8 * regSize r) := Nat.pow_le_pow_right (by decide) hw
        _ = 256 ^ regSize r := Nat.pow_mul 2 8 _
    exact (Nat.div_eq_of_lt hv).symm
  | succ n ih =>
    have hlower : regSize r - n = regSize r - 1 - n + 1 := by omega
    have hrest : regSize r - (n + 1) = regSize r - 1 - n := by omega
    rw [readNumber, ih (by omega), readByte_regAddr s hn, hbytes, numByte_toNat, hlower, hrest, Nat.pow_succ, ← Nat.div_div_eq_div_mul]
    omega

/-- All the bytes of such a register are the number (R66). -/
theorem readNumber_regSize {s : State} (r : Reg) {w : Nat} {v : BitVec w} (hw : w ≤ 8 * regSize r)
    (hbytes : ∀ i, regByte s r i = numByte v (regSize r - 1 - i)) : readNumber s r (regSize r) = v.toNat := by
  rw [readNumber_eq_div hw hbytes (Nat.le_refl _), Nat.sub_self, Nat.pow_zero, Nat.div_one]

/-- Settles O55: `readNumber_regSize` for the numbers, `readByte_regAddr` for the byte strings and buffers. -/
theorem registersAreBigEndian : Obligations.RegistersAreBigEndian := by
  intro s
  exact ⟨readNumber_regSize .msgLen (by decide) fun _ => rfl, readNumber_regSize .flags (by decide) fun _ => rfl,
    readNumber_regSize .checksum (by decide) fun _ => rfl, readNumber_regSize .time (by decide) fun _ => rfl,
    readNumber_regSize .codeBin (by decide) fun _ => rfl,
    fun _ h => readByte_regAddr s (r := .serial) h,
    fun _ h => ⟨readByte_regAddr s (r := .encSeed) h, readByte_regAddr s (r := .seed) h, readByte_regAddr s (r := .digest) h,
      readByte_regAddr s (r := .kdOut) h⟩,
    fun _ h => ⟨readByte_regAddr s (r := .timeBcd) h, readByte_regAddr s (r := .code) h⟩,
    fun _ h => readByte_regAddr s (r := .tokBuf) h, fun _ h => readByte_regAddr s (r := .msgBuf) h⟩

end Sys2Proof.Machine
end

section
/-! PROOFS of the statements about the encodings (spec/30_encoding.md): the command byte and what issuing one does, the illegal
command byte, the length block, the derivation input block, and the host script's `WRS`. -/

namespace Sys2Proof.Machine

/-! ### The command byte -/

/-- Each command stands in its own row of the opcode map (R91). -/
@[simp] theorem decode_encode (i : Instr) : decode (encode i) = .command i := by
  cases i with
  | nop | mac | resolve | decode | derive | load | clear => rfl

/-- No row of the opcode map lists a byte from 0x07 on (R93). -/
theorem decode_of_seven_le {op : Byte} (h : 7 ≤ op.toNat) : decode op = .illegalCommand op := by
  have hrows : ∀ row ∈ opcodeMap, row.1.toNat < 7 := by decide
  have hnone : opcodeMap.find? (fun row => row.1 == op) = none := by
    refine List.find?_eq_none.mpr fun row hrow heq => ?_
    have hlt := hrows row hrow
    rw [beq_iff_eq.mp heq] at hlt
    omega
  simp only [decode, hnone]

/-- The table numbers the bits of a command byte as the byte itself does (R90). -/
theorem tableByte_toNat (op : Byte) : tableByte 8 op.toNat = op := by
  rw [tableByte, Nat.mod_eq_of_lt op.isLt, BitVec.ofNat_toNat, BitVec.setWidth_eq]

theorem decodeTableWord_encode (i : Instr) : decodeTableWord 8 (encode i).toNat = some i := by
  simp only [decodeTableWord, tableByte_toNat, decode_encode]

theorem decodeTableWord_of_seven_le {op : Byte} (h : 7 ≤ op.toNat) : decodeTableWord 8 op.toNat = none := by
  simp only [decodeTableWord, tableByte_toNat, decode_of_seven_le h]

/-- Settles O5: a command is well-formed whatever it is, so `decode_encode` says it all. -/
theorem decodeOfEncodeIsTheCommand : Obligations.DecodeOfEncodeIsTheCommand := fun i _ => decode_encode i

/-- Settles O6: the seven rows are those of `encode`, and no row is left for a byte from 0x07 on. -/
theorem opcodeMapDecides : Obligations.OpcodeMapDecides :=
  ⟨decode_encode .nop, decode_encode .mac, decode_encode .resolve, decode_encode .decode, decode_encode .derive,
    decode_encode .load, decode_encode .clear, fun _ => decode_of_seven_le⟩

/-- Settles O7: the table's numbers are the bytes of three commands and the first illegal byte. -/
theorem tableBytesDecode : Obligations.TableBytesDecode :=
  ⟨decodeTableWord_encode .nop, decodeTableWord_encode .decode, decodeTableWord_encode .clear,
    decodeTableWord_of_seven_le (op := 0x07#8) (by decide)⟩

/-! ### Issuing a command, and the illegal command byte -/

theorem engineStep_of_seven_le {op : Byte} (h : 7 ≤ op.toNat) (s : State) :
    engineStep op s = .next (illegalCommand op s) := by
  simp only [engineStep, decode_of_seven_le h]

/-- Settles O10: the four parts are the issuing step, the engine's turn, its dispatch, and the held access. -/
theorem commandWriteIssues : Obligations.CommandWriteIssues := by
  refine ⟨fun s op rest hp hs => step_issue hp hs, fun s op hp => ⟨fun hs => step_quiet hs hp, fun rest hs => step_engine hs hp⟩,
    fun s op => ⟨fun i hd => engineStep_of_decode hd s, fun h => engineStep_of_seven_le h s⟩, fun s op op' rest hp hs => ?held⟩
  case held =>
    have hstep : step s = engineStep op s := step_held hs hp (by simp)
    obtain ⟨t, ht⟩ := engineStep_total op s
    obtain ⟨hidle, _, hscript, _⟩ := engineStep_completes ht
    exact ⟨hstep, t, hstep.trans ht, hidle, hscript⟩

/-- After an illegal command byte `STATUS` shows `DONE` and `ERRF` beside the two validity flags (R222). -/
theorem statusByte_illegalCommand (op : Byte) (s : State) :
    statusByte (illegalCommand op s) =
      0x06#8 ||| ((BitVec.ofBool s.seedV).setWidth 8 <<< 3) ||| ((BitVec.ofBool s.codeV).setWidth 8 <<< 4) := by
  have hflags : ∀ codeV seedV : Bool,
      (0#3 ++ BitVec.ofBool codeV ++ BitVec.ofBool seedV ++ BitVec.ofBool true ++ BitVec.ofBool true ++ BitVec.ofBool false : Byte)
        = 0x06#8 ||| ((BitVec.ofBool seedV).setWidth 8 <<< 3) ||| ((BitVec.ofBool codeV).setWidth 8 <<< 4) := by decide
  exact hflags s.codeV s.seedV

/-- Settles O21: the next state is `illegalCommand op s`, written out. -/
theorem illegalCommandResult : Obligations.IllegalCommandResult := by
  intro s op h
  have hengine := engineStep_of_seven_le h s
  exact ⟨illegalCommand op s, rfl, hengine, fun hp hs => (step_quiet hs hp).trans hengine, statusByte_illegalCommand op s⟩

/-! ### The length block -/

/-- The loop writes below its starting index only. -/
theorem byteAt_lengthLoop_of_le {p i : Nat} (h : p ≤ i) (L : Nat) (pad : B16) :
    byteAt (lengthLoop p L pad) i = byteAt pad i := by
  induction p generalizing L pad with
  | zero => rfl
  | succ p ih =>
    rw [lengthLoop]
    split
    · rfl
    · rw [ih (by omega), byteAt_setByteAt_other pad (by omega)]

/-- Over zeros the loop leaves the digits of `L` to base 256, the last one at index `p - 1`. -/
theorem byteAt_lengthLoop_of_lt {p i : Nat} (hp : p ≤ 16) (hi : i < p) (L : Nat) {pad : B16}
    (hzero : ∀ j < p, byteAt pad j = 0#8) : (byteAt (lengthLoop p L pad) i).toNat = L / 256 ^ (p - 1 - i) % 256 := by
  induction p generalizing L pad with
  | zero => omega
  | succ p ih =>
    rw [lengthLoop]
    split
    case isTrue hL => simp [hL, hzero i hi]
    case isFalse =>
      rcases Nat.lt_succ_iff_lt_or_eq.mp hi with hlt | rfl
      · have hdigit : p + 1 - 1 - i = p - 1 - i + 1 := by omega
        have hstill : ∀ j < p, byteAt (setByteAt pad p (BitVec.ofNat 8 (L % 256))) j = 0#8 := fun j hj => by
          rw [byteAt_setByteAt_other pad (by omega), hzero j (by omega)]
        rw [ih (by omega) hlt _ hstill, hdigit, Nat.pow_succ', Nat.div_div_eq_div_mul]
      · rw [byteAt_lengthLoop_of_le (Nat.le_refl i), byteAt_setByteAt_same pad (by omega)]
        simp

/-- R106 for a message of any length. -/
theorem byteAt_lengthBlock_toNat (n : Nat) {i : Nat} (h : i < 16) :
    (byteAt (lengthBlock n) i).toNat = 8 * n / 256 ^ (15 - i) % 256 :=
  byteAt_lengthLoop_of_lt (Nat.le_refl 16) h (8 * n) fun j _ => byteAt_rep_zero 16 j

/-- The bit length of at most 256 bytes has two digits to base 256. -/
theorem byteAt_lengthBlock_eq_zero {n i : Nat} (hn : n ≤ 256) (hi : i < 14) : byteAt (lengthBlock n) i = 0#8 := by
  have hpow : 256 ^ 2 ≤ 256 ^ (15 - i) := Nat.pow_le_pow_right (by decide) (by omega)
  have hdiv : 8 * n / 256 ^ (15 - i) = 0 := Nat.div_eq_of_lt (by omega)
  apply BitVec.eq_of_toNat_eq
  rw [byteAt_lengthBlock_toNat n (by omega), hdiv]
  rfl

/-- Settles O24: the digits by the induction on the loop; for `n = 0` the loop writes nothing. -/
theorem lengthBlockIsBitLength : Obligations.LengthBlockIsBitLength :=
  ⟨fun n _ hi => byteAt_lengthBlock_toNat n hi, fun _ _ hn hi => byteAt_lengthBlock_eq_zero hn hi, rfl⟩

/-! ### The derivation input block -/

section
variable (ts : Bytes 8) (suffix : List Byte) {n i : Nat}

theorem length_slice_toList (hn : n ≤ 8) : (slice ts.toList 0 n).length = n := by
  simp [slice, hn]

/-- The block begins with the first `n` timestamp bytes. -/
theorem byteAt_deriveBlock_stamp (hn : n ≤ 8) (hi : i < n) : byteAt (deriveBlock ts suffix n) i = byteAt ts i := by
  have hlen := length_slice_toList ts hn
  rw [deriveBlock, byteAt_bytesOf _ (by omega), List.append_assoc, List.append_assoc, List.getD_append _ _ _ _ (by omega),
    byteAt_eq_getElem ts (by omega)]
  simp [slice, hi, show i < 8 by omega]

/-- The filler between timestamp bytes and suffix. -/
theorem byteAt_deriveBlock_filler (hlo : n ≤ i) (hi : i < 8) : byteAt (deriveBlock ts suffix n) i = 0xAA#8 := by
  have hlen := length_slice_toList ts (n := n) (by omega)
  rw [deriveBlock, byteAt_bytesOf _ (by omega), List.append_assoc, List.append_assoc, List.getD_append_right _ _ _ _ (by omega),
    hlen, List.getD_append _ _ _ _ (by simp; omega), List.getD_replicate _ (by omega)]

/-- The suffix starts at byte 8, however many timestamp bytes stand before it. -/
theorem byteAt_deriveBlock_suffix (hn : n ≤ 8) (hsuffix : suffix.length = 4) (hi : i < 4) :
    some (byteAt (deriveBlock ts suffix n) (8 + i)) = suffix[i]? := by
  have hhead : (slice ts.toList 0 n ++ List.replicate (8 - n) 0xAA#8).length = 8 := by
    rw [List.length_append, length_slice_toList ts hn, List.length_replicate]
    omega
  rw [deriveBlock, byteAt_bytesOf _ (by omega), List.append_assoc, List.getD_append_right _ _ _ _ (by omega), hhead,
    Nat.add_sub_cancel_left, List.getD_append _ _ _ _ (by omega), List.getElem?_eq_getElem (by omega),
    List.getD_eq_getElem _ _ (by omega)]

/-- The filler after the suffix. -/
theorem byteAt_deriveBlock_tail (hn : n ≤ 8) (hsuffix : suffix.length = 4) (hlo : 12 ≤ i) (hi : i < 16) :
    byteAt (deriveBlock ts suffix n) i = 0xBB#8 := by
  have hhead : (slice ts.toList 0 n ++ List.replicate (8 - n) 0xAA#8 ++ suffix).length = 12 := by
    rw [List.length_append, List.length_append, length_slice_toList ts hn, List.length_replicate]
    omega
  rw [deriveBlock, byteAt_bytesOf _ hi, List.getD_append_right _ _ _ _ (by omega), hhead, List.getD_replicate _ (by omega)]

end

/-- Settles O42: the five round lengths are at most 8, which is all that the four parts of the block need. -/
theorem derivationBlockLayout : Obligations.DerivationBlockLayout := by
  intro ts suffix n hsuffix hmem
  have hlengths : ∀ m ∈ [2, 3, 4, 5, 8], m ≤ 8 := by decide
  have hn := hlengths n hmem
  exact ⟨fun _ => byteAt_deriveBlock_stamp ts suffix hn, fun _ => byteAt_deriveBlock_filler ts suffix,
    fun _ => byteAt_deriveBlock_suffix ts suffix hn hsuffix, fun _ => byteAt_deriveBlock_tail ts suffix hn hsuffix⟩

/-! ### `WRS` -/

/-- What the host reads of a register does not depend on the turns to come. -/
@[simp] theorem regByte_withTurns (turns : List Turn) (s : State) (r : Reg) (k : Nat) :
    regByte (withTurns turns s) r k = regByte s r k := by
  cases r <;> rfl

/-- A write to a byte of a register while the engine is idle is taken at once (R63). -/
theorem step_write {s : State} {r : Reg} {k : Nat} {v : Byte} {rest : List Turn} (hp : s.phase = .idle) (hk : k < regSize r)
    (hs : s.script = writeTurn r k v :: rest) : step s = .next (writeReg (withTurns rest s) r k v) := by
  rw [step_access hs (accessEnabled_of_idle hp _), hostStep, writeByte_regAddr _ hk]

/-- Writes at ascending addresses from byte `k` on: they are all taken, each leaves its byte, and the bytes below `k` stay. -/
theorem run_writeTurns {r : Reg} (hr : regAccess r = .rw) {rest : List Turn} {bs : List Byte} {k : Nat} {s : State}
    (hfit : k + bs.length ≤ regSize r) (hp : s.phase = .idle) (hm : Memory.wf s.mem) (hs : s.script = writeTurns r k bs ++ rest) :
    ∃ t : State, Host.Core.run Sys2Proof.core bs.length s = .next t ∧ t.phase = .idle ∧ t.script = rest ∧ t.replies = s.replies ∧
      (∀ j < k, regByte t r j = regByte s r j) ∧
      ∀ (j : Nat) (b : Byte), bs[j]? = some b →
        regByte t r (k + j) = if r = .checksum ∧ k + j = 0 then b &&& 0x7F#8 else b := by
  induction bs generalizing k s with
  | nil => exact ⟨s, rfl, hp, hs, rfl, fun _ _ => rfl, fun _ _ h => by cases h⟩
  | cons b bs ih =>
    have hcmd : r ≠ .cmd := by rintro rfl; cases hr
    have hfit' : k + 1 + bs.length ≤ regSize r := by rw [List.length_cons] at hfit; omega
    have hk : k < regSize r := by omega
    have hm' : Memory.wf (withTurns (writeTurns r (k + 1) bs ++ rest) s).mem := hm
    have hfirst := step_write hp hk (rest := writeTurns r (k + 1) bs ++ rest) hs
    obtain ⟨hphase, _⟩ := writeReg_quiet hcmd (withTurns (writeTurns r (k + 1) bs ++ rest) s) k b
    obtain ⟨t, hrun, hidle, hscript, hreplies, hbelow, hbytes⟩ :=
      ih hfit' (hphase.trans hp) (writeReg_memory_wf hm' hk b) (writeReg_script _ r k b)
    refine ⟨t, (run_succ hfirst _).trans hrun, hidle, hscript, hreplies.trans (writeReg_replies _ r k b), fun j hj => ?below,
      fun j c hc => ?written⟩
    case below =>
      rw [hbelow j (by omega), regByte_writeReg_otherByte _ (by omega) hk (by omega), regByte_withTurns]
    case written =>
      cases j with
      | zero =>
        cases hc
        exact (hbelow k (by omega)).trans (regByte_writeReg_same hm' hr hk b)
      | succ j =>
        have hindex : k + (j + 1) = k + 1 + j := by omega
        rw [hindex]
        exact hbytes j c hc

/-- Settles O57: `run_writeTurns` from byte 0 on, with the register's bytes read at their addresses. -/
theorem writeStringStoresBytes : Obligations.WriteStringStoresBytes := by
  intro s r bs rest hp hm hr hfit hs
  obtain ⟨t, hrun, hidle, hscript, hreplies, _, hbytes⟩ := run_writeTurns hr (k := 0) (by omega) hp hm hs
  refine ⟨t, hrun, hidle, hscript, hreplies, fun k b hb => ?_⟩
  obtain ⟨hlt, _⟩ := List.getElem?_eq_some_iff.mp hb
  have hk : k < regSize r := by omega
  have hbyte := hbytes k b hb
  rw [Nat.zero_add] at hbyte
  simp only [readByte_regAddr t hk, hbyte, regAddr_eq_0x00E_iff hk]

end Sys2Proof.Machine
end

section
/-! PROOFS of the statements about the keyed hash (spec/40_keyed_hash.md): the `MAC` command, what it does not depend on, and the
chain of feedback steps that a hash is. -/

namespace Sys2Proof.Machine

/-! ### The `MAC` command -/

theorem exec_mac_of_lt {s : State} (h : 256 < s.msgLen.toNat) :
    exec .mac s = .next (raise .invalidParameter 4#8 { s with digest := rep 16 0#8, trace := [] }) := by
  rcases macCommand_cases Config.params s with ⟨_, he⟩ | ⟨hle, _⟩
  · exact congrArg _ he
  · omega

theorem exec_mac_of_le {s : State} (h : s.msgLen.toNat ≤ 256) :
    exec .mac s =
      .next (succeed { s with digest := macDigest Config.params (message s), trace := macTrace Config.params (message s) }) := by
  rcases macCommand_cases Config.params s with ⟨hlt, _⟩ | ⟨_, he⟩
  · omega
  · exact congrArg _ he

/-- Settles O16: the two outcomes of `MAC`, with the message read at its host addresses. -/
theorem macResult : Obligations.MacResult := fun _ => ⟨exec_mac_of_lt, exec_mac_of_le⟩

theorem message_congr {s s' : State} (hl : s.msgLen = s'.msgLen) (hm : ∀ i, i < s.msgLen.toNat → msgByte s i = msgByte s' i) :
    message s = message s' := by
  unfold message
  rw [← hl]
  exact List.map_congr_left fun i hi => hm i (List.mem_range.mp hi)

/-- Settles O22: which outcome `MAC` has is decided by `MSGLEN`, and what it writes by the message. -/
theorem macIgnoresStaleBytes : Obligations.MacIgnoresStaleBytes := by
  intro s s' t t' hl hm ht ht'
  rcases Nat.lt_or_ge 256 s.msgLen.toNat with hlong | hfits
  · cases (exec_mac_of_lt hlong).symm.trans ht
    cases (exec_mac_of_lt (hl ▸ hlong)).symm.trans ht'
    exact ⟨rfl, rfl, rfl, rfl⟩
  · cases (exec_mac_of_le hfits).symm.trans ht
    cases (exec_mac_of_le (hl ▸ hfits)).symm.trans ht'
    have hmessage : message s = message s' := message_congr hl hm
    exact ⟨congrArg (macDigest _) hmessage, rfl, rfl, congrArg (macTrace _) hmessage⟩

/-! ### Feedback steps under a list of keys -/

/-- A hash that makes one feedback step under each key of a list, from sixteen 0xFF on (R134).
`macRun_eq_hashUnder` ties it to `macRun`. -/
def hashUnder (p : Params) (keys : List B16) : HashRun :=
  keys.foldl (feed p) { work := rep 16 0xFF#8, trace := [] }

section
variable (p : Params) (keys : List B16)

theorem hashUnder_concat (k : B16) : hashUnder p (keys ++ [k]) = feed p (hashUnder p keys) k := by
  simp only [hashUnder, List.foldl_append, List.foldl_cons, List.foldl_nil]

theorem hashUnder_keys : (hashUnder p keys).trace.map (fun r => r.key) = keys := by
  induction keys using List.reverseRecOn with
  | nil => rfl
  | append_singleton keys k ih => simp only [hashUnder_concat, feed, encReq, List.map_append, List.map_cons, List.map_nil, ih]

theorem hashUnder_length : (hashUnder p keys).trace.length = keys.length := by
  have h := congrArg List.length (hashUnder_keys p keys)
  rwa [List.length_map] at h

theorem hashUnder_dir : ∀ r ∈ (hashUnder p keys).trace, r.dir = .enc := by
  induction keys using List.reverseRecOn with
  | nil => exact fun r hr => by cases hr
  | append_singleton keys k ih =>
    rw [hashUnder_concat]
    intro r hr
    rcases List.mem_append.mp hr with hold | hnew
    · exact ih r hold
    · rw [List.mem_singleton.mp hnew]; rfl

/-- The whole chain in one equation: the data of the requests, then the running value, are sixteen 0xFF and then the feedback of each
request in order (R131, R134). -/
theorem hashUnder_chain :
    (hashUnder p keys).trace.map (fun r => r.din) ++ [(hashUnder p keys).work] =
      rep 16 0xFF#8 :: (hashUnder p keys).trace.map fun r => feedback p r.key r.din := by
  induction keys using List.reverseRecOn with
  | nil => rfl
  | append_singleton keys k ih =>
    simp only [hashUnder_concat, feed, encReq, List.map_append, List.map_cons, List.map_nil, ih, List.cons_append]

/-- Each later data is the feedback of the request before it. -/
theorem hashUnder_din_succ {j : Nat} {r r' : CipherReq} (hr : (hashUnder p keys).trace[j]? = some r)
    (hr' : (hashUnder p keys).trace[j + 1]? = some r') : r'.din = feedback p r.key r.din := by
  obtain ⟨hlt, rfl⟩ := List.getElem?_eq_some_iff.mp hr'
  have h := congrArg (fun l => l[j + 1]?) (hashUnder_chain p keys)
  simpa [List.getElem?_append_left, hlt, hr] using h

theorem hashUnder_head_din {keys : List B16} (h : keys ≠ []) :
    ((hashUnder p keys).trace.head?.map fun r => r.din) = some (rep 16 0xFF#8) := by
  have hne : (hashUnder p keys).trace ≠ [] := by
    rwa [← List.length_pos_iff, hashUnder_length, List.length_pos_iff]
  have hhead := congrArg List.head? (hashUnder_chain p keys)
  rwa [List.head?_append_of_ne_nil _ (by simpa using hne), List.head?_map, List.head?_cons] at hhead

end

/-! ### The keys of a message -/

/-- The keys of `Mac(data)` before its last feedback step (R134 steps 3 to 6). -/
def macKeys (data : List Byte) : List B16 :=
  (List.range (fullChunks data.length)).map (chunk data) ++ [lastChunk data] ++
    (if fullChunks data.length % 2 = 1 then [rep 16 0#8] else []) ++ [lengthBlock data.length]

/-- The last key of `Mac(data)`: the running value after the steps under `macKeys data` (R134 step 7). -/
def lastKey (p : Params) (data : List Byte) : B16 := (hashUnder p (macKeys data)).work

/-- `Mac(data)` is the feedback steps under its keys, then one step of the running value under itself (R134). -/
theorem macRun_eq_feed (p : Params) (data : List Byte) :
    macRun p data = feed p (hashUnder p (macKeys data)) (lastKey p data) := by
  unfold macRun lastKey hashUnder macKeys
  by_cases hodd : fullChunks data.length % 2 = 1 <;> simp [hodd, List.foldl_map]

theorem macRun_eq_hashUnder (p : Params) (data : List Byte) :
    macRun p data = hashUnder p (macKeys data ++ [lastKey p data]) := by
  rw [macRun_eq_feed, hashUnder_concat]

theorem macTrace_eq_hashUnder (p : Params) (data : List Byte) :
    macTrace p data = (hashUnder p (macKeys data ++ [lastKey p data])).trace := by
  rw [macTrace, macRun_eq_hashUnder]

theorem length_macKeys (data : List Byte) : (macKeys data).length = data.length / 16 + 2 + data.length / 16 % 2 := by
  unfold macKeys fullChunks
  split <;> simp <;> omega

/-- `bytesOf` pads with zeros itself, so zeros appended before it change nothing (R133). -/
theorem bytesOf_append_zeros (n k : Nat) (l : List Byte) : bytesOf n (l ++ List.replicate k 0#8) = bytesOf n l := by
  refine bytes_ext fun i hi => ?_
  rw [byteAt_bytesOf _ hi, byteAt_bytesOf _ hi]
  rcases Nat.lt_or_ge i l.length with h | h
  · rw [List.getD_append _ _ _ _ h]
  · rw [List.getD_append_right _ _ _ _ h, List.getD_eq_default _ _ h]
    exact (List.getD_eq_getElem?_getD ..).trans (List.getElem?_getD_replicate_default_eq ..)

theorem chunk_eq_bytesOf (data : List Byte) (i : Nat) : chunk data i = bytesOf 16 ((data.drop (16 * i)).take 16) := by
  rw [chunk, slice, Nat.add_sub_cancel_left]

theorem lastChunk_eq_bytesOf (data : List Byte) : lastChunk data = bytesOf 16 (data.drop (16 * (data.length / 16))) :=
  bytesOf_append_zeros 16 _ _

theorem macKeys_eq (data : List Byte) :
    macKeys data =
      (List.range (data.length / 16)).map (fun i => bytesOf 16 ((data.drop (16 * i)).take 16)) ++
        [bytesOf 16 (data.drop (16 * (data.length / 16)))] ++
        (if data.length / 16 % 2 = 1 then [rep 16 0#8] else []) ++ [lengthBlock data.length] := by
  rw [macKeys, lastChunk_eq_bytesOf, funext (chunk_eq_bytesOf data)]
  rfl

/-- Settles O23: `Mac(data)` is `hashUnder` its keys and the value they leave, so its keys, chain and length are those of
`hashUnder`, and its last step is the one of that value under itself. -/
theorem macChainsFeedbackSteps : Obligations.MacChainsFeedbackSteps := by
  intro p data
  refine ⟨?length, ?dir, ⟨lastKey p data, ?keys, ?last, ?digest⟩, ?first, ?chain⟩
  case length =>
    rw [macTrace_eq_hashUnder, hashUnder_length, List.length_append, length_macKeys, List.length_singleton]
    omega
  case dir =>
    rw [macTrace_eq_hashUnder]
    exact hashUnder_dir p _
  case keys =>
    rw [macTrace_eq_hashUnder, hashUnder_keys, macKeys_eq, List.append_assoc _ _ [lastKey p data]]
    rfl
  case last =>
    rw [macTrace, macRun_eq_feed]
    exact List.getLast?_concat
  case digest =>
    rw [macDigest, macRun_eq_feed]
    rfl
  case first =>
    rw [macTrace_eq_hashUnder]
    exact hashUnder_head_din p (List.append_ne_nil_of_right_ne_nil _ (List.cons_ne_nil _ _))
  case chain =>
    rw [macTrace_eq_hashUnder]
    exact fun j r r' => hashUnder_din_succ p _

end Sys2Proof.Machine
end

section
/-! PROOFS of the statements about the seed resolver (spec/41_seed_resolver.md): the `RESOLVE` and `LOAD` commands, the cipher trace
of `RESOLVE`, its round trip, and the two 15-bit checksums. -/

namespace Sys2Proof.Machine

/-! ### The `RESOLVE` command -/

theorem exec_resolve_of_eq {s : State} (h : computedChecksum Config.params s.encSeed = s.checksum) :
    exec .resolve s =
      .next (succeed { s with seed := candidateSeed Config.params s.encSeed, seedV := true,
                              trace := resolveTrace Config.params s.encSeed }) := by
  rcases resolveCommand_cases Config.params s with ⟨hne, _⟩ | ⟨_, he⟩
  · exact absurd h hne
  · exact congrArg _ he

theorem exec_resolve_of_ne {s : State} (h : computedChecksum Config.params s.encSeed ≠ s.checksum) :
    exec .resolve s =
      .next (raise .integrityError 0#8 { s with seed := rep 16 0#8, seedV := false,
                                                trace := resolveTrace Config.params s.encSeed }) := by
  rcases resolveCommand_cases Config.params s with ⟨_, he⟩ | ⟨heq, _⟩
  · exact congrArg _ he
  · exact absurd heq h

/-- Settles O17: the two outcomes of `RESOLVE`, with the candidate seed and its checksum written out. -/
theorem resolveResult : Obligations.ResolveResult := fun _ => ⟨exec_resolve_of_eq, exec_resolve_of_ne⟩

/-- `RESOLVE` ends without an error only when the two checksums agree (R152). -/
theorem computedChecksum_of_exec_resolve {s t : State} (h : exec .resolve s = .next t) (herr : t.err = 0#8) :
    computedChecksum Config.params s.encSeed = s.checksum := by
  by_contra hne
  cases (exec_resolve_of_ne hne).symm.trans h
  exact errorCode_ne_zero .integrityError herr

/-- Settles O27: the computed checksum depends on `ENCSEED` alone and equals `CHECKSUM` in a success, so it differs from any other. -/
theorem changedChecksumFailsResolve : Obligations.ChangedChecksumFailsResolve := by
  intro s t t' c ht herr hc ht'
  have hne : computedChecksum Config.params s.encSeed ≠ c := by
    rw [computedChecksum_of_exec_resolve ht herr]
    exact hc.symm
  cases (exec_resolve_of_ne (s := { s with checksum := c }) hne).symm.trans ht'
  exact ⟨rfl, rfl, rfl, rfl⟩

theorem exec_resolve_trace {s t : State} (h : exec .resolve s = .next t) : t.trace = resolveTrace Config.params s.encSeed := by
  by_cases hsum : computedChecksum Config.params s.encSeed = s.checksum
  · cases (exec_resolve_of_eq hsum).symm.trans h
    rfl
  · cases (exec_resolve_of_ne hsum).symm.trans h
    rfl

/-! ### The round trip -/

section
variable {p : Params} (hinv : p.Inverse) (seed : B16)
include hinv

theorem candidateSeed_aesEnc : candidateSeed p (p.aesEnc (keyHash p) seed) = seed := hinv _ _

theorem computedChecksum_aesEnc : computedChecksum p (p.aesEnc (keyHash p) seed) = top15 (macDigest p seed.toList) := by
  rw [computedChecksum, candidateSeed_aesEnc hinv]

end

/-- Settles O26: decryption gives the seed back, so the checksum computed from it is the stored one. -/
theorem resolveInvertsEncoding : Obligations.ResolveInvertsEncoding := by
  intro p hinv seed s henc hsum
  have hcand : candidateSeed p s.encSeed = seed := by
    rw [henc]
    exact candidateSeed_aesEnc hinv seed
  have hchk : computedChecksum p s.encSeed = s.checksum := by
    rw [henc, hsum]
    exact computedChecksum_aesEnc hinv seed
  have hresolve : resolveSeed p s.encSeed s.checksum = some seed := by rw [resolveSeed, if_pos hchk, hcand]
  rcases resolveCommand_cases p s with ⟨hne, _⟩ | ⟨_, he⟩
  · exact absurd hchk hne
  · rw [he]
    exact ⟨hresolve, hcand, rfl, rfl⟩

/-! ### The cipher trace of `RESOLVE` -/

/-- The last request of `Mac(data)` has the running value both as its key and as its data (R134 step 7). -/
theorem macTrace_eq_concat (p : Params) (data : List Byte) :
    macTrace p data = (hashUnder p (macKeys data)).trace ++ [encReq (lastKey p data) (lastKey p data)] := by
  rw [macTrace, macRun_eq_feed]
  rfl

/-- A message shorter than a block has its padded bytes and the length block as its keys (R133). -/
theorem macKeys_of_length_lt {data : List Byte} (h : data.length < 16) :
    macKeys data = [bytesOf 16 data, lengthBlock data.length] := by
  have hfull : data.length / 16 = 0 := Nat.div_eq_of_lt h
  simp [macKeys_eq, hfull]

theorem bytesOf_toList {n : Nat} (v : Bytes n) : bytesOf n v.toList = v := by
  refine bytes_ext fun i hi => ?_
  rw [byteAt_bytesOf _ hi, byteAt_eq_getElem v hi]
  simp [hi]

/-- One block is one full chunk with an empty remainder, and the odd count of chunks asks for a block of zeros (R134). -/
theorem macKeys_block (b : B16) : macKeys b.toList = [b, rep 16 0#8, rep 16 0#8, lengthBlock 16] := by
  have hchunk : bytesOf 16 (b.toList.take 16) = b := by rw [List.take_of_length_le (by simp), bytesOf_toList]
  have hrest : bytesOf 16 (b.toList.drop 16) = rep 16 0#8 := by
    rw [List.drop_of_length_le (by simp)]
    rfl
  simp [macKeys_eq, hchunk, hrest]

theorem lengthBlock_six : lengthBlock 6 = setByteAt (rep 16 0#8) 15 0x30#8 := rfl

theorem lengthBlock_sixteen : lengthBlock 16 = setByteAt (rep 16 0#8) 15 0x80#8 := rfl

/-- The three requests of `Mac(MAGIC)`. -/
theorem macTrace_magic (p : Params) :
    macTrace p p.magic.toList =
      [encReq (bytesOf 16 p.magic.toList) (rep 16 0xFF#8),
       encReq (lengthBlock 6) (hashUnder p [bytesOf 16 p.magic.toList]).work,
       encReq (lastKey p p.magic.toList) (lastKey p p.magic.toList)] := by
  have hlen : p.magic.toList.length = 6 := Vector.length_toList
  rw [macTrace_eq_concat, macKeys_of_length_lt (by omega), hlen]
  rfl

/-- The five requests of the hash of one block. -/
theorem macTrace_block (p : Params) (b : B16) :
    macTrace p b.toList =
      [encReq b (rep 16 0xFF#8), encReq (rep 16 0#8) (hashUnder p [b]).work,
       encReq (rep 16 0#8) (hashUnder p [b, rep 16 0#8]).work,
       encReq (lengthBlock 16) (hashUnder p [b, rep 16 0#8, rep 16 0#8]).work,
       encReq (lastKey p b.toList) (lastKey p b.toList)] := by
  rw [macTrace_eq_concat, macKeys_block]
  rfl

/-- Settles O25: the three requests of `macTrace_magic`, the decryption, the five of `macTrace_block` at the candidate seed. -/
theorem resolveTraceIsNineRequests : Obligations.ResolveTraceIsNineRequests := by
  refine ⟨fun p enc => ?_, fun _ _ => exec_resolve_trace⟩
  rw [resolveTrace, macTrace_magic, macTrace_block, lengthBlock_six, lengthBlock_sixteen, bytesOf_append_zeros]
  exact ⟨_, _, _, _, _, _, rfl⟩

/-! ### The `LOAD` command -/

theorem intervalLegal_iff_toNat {s : State} : intervalLegal s = true ↔ s.interval.toNat = 30 ∨ s.interval.toNat = 60 := by
  rw [intervalLegal_iff, ← BitVec.toNat_inj, ← BitVec.toNat_inj]
  rfl

theorem exec_load_interval_illegal {s : State} (hd : digitsLegal s = true) (hi : intervalLegal s = false) :
    exec .load s = .next (raise .invalidParameter 2#8 { s with seedV := false, trace := [] }) := by
  rcases loadCommand_cases s with ⟨hd', _⟩ | ⟨_, _, he⟩ | ⟨_, hi', _⟩
  · cases hd.symm.trans hd'
  · exact congrArg _ he
  · cases hi.symm.trans hi'

theorem exec_load_legal {s : State} (hd : digitsLegal s = true) (hi : intervalLegal s = true) :
    exec .load s = .next (succeed { s with seedV := true, trace := [] }) := by
  rcases loadCommand_cases s with ⟨hd', _⟩ | ⟨_, hi', _⟩ | ⟨_, _, he⟩
  · cases hd.symm.trans hd'
  · cases hi.symm.trans hi'
  · exact congrArg _ he

/-- Settles O18: the three outcomes of `LOAD`, with the two legality checks read as ranges of numbers. -/
theorem loadResult : Obligations.LoadResult := by
  refine fun s => ⟨fun hout => exec_load_digits_illegal ?digits, fun hlo hhi h30 h60 =>
    exec_load_interval_illegal (digitsLegal_iff.mpr ⟨hlo, hhi⟩) ?interval, fun hlo hhi hi =>
    exec_load_legal (digitsLegal_iff.mpr ⟨hlo, hhi⟩) (intervalLegal_iff_toNat.mpr hi)⟩
  case digits =>
    rw [Bool.eq_false_iff, ne_eq, digitsLegal_iff]
    omega
  case interval =>
    rw [Bool.eq_false_iff, ne_eq, intervalLegal_iff_toNat]
    omega

/-! ### Ranges of buffer bits as numbers -/

section
variable {m : Nat} (buf : Bytes m)

/-- One more bit doubles the number and adds the bit (R177). -/
theorem extractBits_succ (off n : Nat) :
    extractBits buf off (n + 1) = 2 * extractBits buf off n + (bufferBit buf (off + n)).toNat := by
  rw [extractBits, List.range_succ, List.foldl_append, List.foldl_cons, List.foldl_nil,
    ← Nat.shiftLeft_add_eq_or_of_lt (Bool.toNat_lt _), Nat.shiftLeft_eq, Nat.mul_comm]
  rfl

/-- A range of bits read in two parts. -/
theorem extractBits_add (off a n : Nat) :
    extractBits buf off (a + n) = extractBits buf off a * 2 ^ n + extractBits buf (off + a) n := by
  induction n with
  | zero => simp [extractBits]
  | succ n ih =>
    rw [← Nat.add_assoc, extractBits_succ, extractBits_succ, ih, Nat.pow_succ, Nat.add_assoc off]
    ring

/-- A buffer bit is a binary digit of its byte, counted from the most significant (R14). -/
theorem bufferBit_toNat (i : Nat) {k : Nat} (h : k < 8) :
    (bufferBit buf (8 * i + k)).toNat = (byteAt buf i).toNat / 2 ^ (7 - k) % 2 := by
  have hbyte : (8 * i + k) / 8 = i := by omega
  have hbit : (8 * i + k) % 8 = k := by omega
  rw [bufferBit, hbyte, hbit, BitVec.getLsbD, Nat.toNat_testBit]

/-- A range of bits inside byte `i`, from its bit `k` on, is a quotient of the byte cut to the range's width. -/
theorem extractBits_within_byte (i : Nat) {k n : Nat} (h : k + n ≤ 8) :
    extractBits buf (8 * i + k) n = (byteAt buf i).toNat / 2 ^ (8 - k - n) % 2 ^ n := by
  induction n with
  | zero => simp [extractBits, Nat.mod_one]
  | succ n ih =>
    have hlow : 7 - (k + n) = 8 - k - (n + 1) := by omega
    have hrest : 8 - k - n = 8 - k - (n + 1) + 1 := by omega
    rw [extractBits_succ, ih (by omega), Nat.add_assoc, bufferBit_toNat buf i (by omega), hlow, hrest, Nat.pow_succ,
      ← Nat.div_div_eq_div_mul, Nat.pow_succ', Nat.mod_mul, Nat.add_comm]

end

/-! ### The two checksums -/

/-- The embedded checksum is the last bit of byte 19, byte 20 and the top six bits of byte 21 (R105). -/
theorem extractBits_checksum (buf : Bytes 24) :
    extractBits buf 159 15 =
      ((byteAt buf 19).toNat % 2) * 2 ^ 14 + (byteAt buf 20).toNat * 2 ^ 6 + (byteAt buf 21).toNat / 4 := by
  have h19 : extractBits buf 159 1 = _ := extractBits_within_byte buf 19 (k := 7) (by omega)
  have h20 : extractBits buf 160 8 = _ := extractBits_within_byte buf 20 (k := 0) (by omega)
  have h21 : extractBits buf 168 6 = _ := extractBits_within_byte buf 21 (k := 0) (by omega)
  rw [extractBits_add buf 159 1 14, extractBits_add buf 160 8 6, h19, h20, h21]
  omega

/-- The first 15 bits of a digest are byte 0 and the top seven bits of byte 1 (R105). -/
theorem extractBits_digest (d : B16) : extractBits d 0 15 = (byteAt d 0).toNat * 2 ^ 7 + (byteAt d 1).toNat / 2 := by
  have h0 : extractBits d 0 8 = _ := extractBits_within_byte d 0 (k := 0) (by omega)
  have h1 : extractBits d 8 7 = _ := extractBits_within_byte d 1 (k := 0) (by omega)
  rw [extractBits_add d 0 8 7, h0, h1]
  omega

/-- The two parts of `top15` share no bit, so their union is their sum. -/
theorem top15_toNat (d : B16) : (top15 d).toNat = (byteAt d 0).toNat * 2 ^ 7 + (byteAt d 1).toNat / 2 := by
  have hhigh : ((byteAt d 0).setWidth 15 <<< 7).toNat = (byteAt d 0).toNat <<< 7 := by
    simp only [BitVec.toNat_shiftLeft, BitVec.toNat_setWidth, Nat.shiftLeft_eq]
    omega
  have hlow : ((byteAt d 1 >>> 1).setWidth 15).toNat = (byteAt d 1).toNat / 2 := by
    simp only [BitVec.toNat_setWidth, BitVec.toNat_ushiftRight, Nat.shiftRight_eq_div_pow]
    omega
  rw [top15, ← byteAt_eq_getElem d (by omega), ← byteAt_eq_getElem d (by omega), BitVec.toNat_or, hhigh, hlow,
    ← Nat.shiftLeft_add_eq_or_of_lt (by omega), Nat.shiftLeft_eq]

/-- Settles O30: both bounds follow from the formulas, since a byte is below 256. -/
theorem checksumFormulas : Obligations.ChecksumFormulas := by
  refine ⟨fun buf => ⟨extractBits_checksum buf, ?embedded⟩,
    fun d => ⟨top15_toNat d, (top15_toNat d).trans (extractBits_digest d).symm, ?computed⟩⟩
  case embedded =>
    rw [extractBits_checksum]
    omega
  case computed =>
    rw [top15_toNat]
    omega

end Sys2Proof.Machine
end

section
/-! PROOFS of the statements about the token decoder (spec/42_token_decoder.md): the packed field buffer and the numbers read from
it, the flag decoders, and the `DECODE` command. -/

namespace Sys2Proof.Machine

/-! ### Reading buffer bits -/

section
variable {m : Nat} (buf : Bytes m) (off : Nat)

theorem extractBits_lt (n : Nat) : extractBits buf off n < 2 ^ n := by
  induction n with
  | zero => exact Nat.one_pos
  | succ n ih =>
    have hbit := Bool.toNat_lt (bufferBit buf (off + n))
    rw [extractBits_succ, Nat.pow_succ]
    omega

/-- The bit read last is bit 0 of the number; the bits read before it move up by one. -/
theorem testBit_extractBits {n i : Nat} (h : i < n) :
    (extractBits buf off n).testBit i = bufferBit buf (off + (n - 1 - i)) := by
  induction n generalizing i with
  | zero => omega
  | succ n ih =>
    rw [extractBits_succ, ← Nat.bit_val]
    cases i with
    | zero => exact Nat.testBit_bit_zero _ _
    | succ i =>
      have hindex : n + 1 - 1 - (i + 1) = n - 1 - i := by omega
      rw [Nat.testBit_bit_succ, ih (by omega), hindex]

end

/-- Settles O29: the bound and the bits by induction on the number of bits read. -/
theorem extractBitsReadsRange : Obligations.ExtractBitsReadsRange :=
  fun _ buf off n => ⟨extractBits_lt buf off n, fun _ h => testBit_extractBits buf off h, rfl⟩

/-- A number read from a range depends on the bits of that range only. -/
theorem extractBits_congr {m : Nat} {buf buf' : Bytes m} {off n : Nat}
    (h : ∀ b, off ≤ b → b < off + n → bufferBit buf b = bufferBit buf' b) : extractBits buf off n = extractBits buf' off n := by
  induction n with
  | zero => rfl
  | succ n ih =>
    rw [extractBits_succ, extractBits_succ, ih fun b hlo hhi => h b hlo (by omega), h (off + n) (by omega) (by omega)]

/-- A byte of a buffer is what its eight buffer bits say (R14). -/
theorem byteAt_congr {m : Nat} {buf buf' : Bytes m} {k : Nat}
    (h : ∀ b, 8 * k ≤ b → b < 8 * k + 8 → bufferBit buf b = bufferBit buf' b) : byteAt buf k = byteAt buf' k := by
  refine BitVec.eq_of_getLsbD_eq fun j hj => ?_
  have hbyte : (8 * k + (7 - j)) / 8 = k := by omega
  have hbit : 7 - (8 * k + (7 - j)) % 8 = j := by omega
  have hb := h (8 * k + (7 - j)) (by omega) (by omega)
  simpa only [bufferBit, hbyte, hbit] using hb

/-! ### The packed field buffer -/

/-- Bits or-ed into byte `k` of a buffer show at the eight buffer bits of that byte and nowhere else. -/
theorem bufferBit_setByteAt_or {m : Nat} (buf : Bytes m) {k : Nat} (hk : k < m) (x : Byte) (i : Nat) :
    bufferBit (setByteAt buf k (byteAt buf k ||| x)) i = (bufferBit buf i || (decide (i / 8 = k) && x.getLsbD (7 - i % 8))) := by
  by_cases hi : i / 8 = k
  · simp [bufferBit, hi, byteAt_setByteAt_same buf hk]
  · simp [bufferBit, hi, byteAt_setByteAt_other buf hi]

/-- The two bytes that a step of `pack` or-s into the buffer, as one window of 16 bits that starts at buffer bit `8 * k`. -/
theorem bufferBit_setByteAt_window {m : Nat} (buf : Bytes m) {k : Nat} (hk : k + 1 < m) (w : BitVec 16) (i : Nat) :
    let buf' := setByteAt buf k (byteAt buf k ||| (w >>> 8).setWidth 8)
    bufferBit (setByteAt buf' (k + 1) (byteAt buf' (k + 1) ||| w.setWidth 8)) i =
      (bufferBit buf i || (decide (8 * k ≤ i ∧ i < 8 * k + 16) && w.getLsbD (8 * k + 15 - i))) := by
  intro buf'
  rw [bufferBit_setByteAt_or buf' hk, bufferBit_setByteAt_or buf (by omega), Bool.or_assoc]
  congr 1
  by_cases hhigh : i / 8 = k
  · have hother : ¬ i / 8 = k + 1 := by omega
    have hin : 8 * k ≤ i ∧ i < 8 * k + 16 := by omega
    have hbit : 8 + (7 - i % 8) = 8 * k + 15 - i := by omega
    have hlt : 7 - i % 8 < 8 := by omega
    simp [hhigh, hin, hbit, hlt]
  · by_cases hlow : i / 8 = k + 1
    · have hin : 8 * k ≤ i ∧ i < 8 * k + 16 := by omega
      have hbit : 7 - i % 8 = 8 * k + 15 - i := by omega
      have hlt : 8 * k + 15 - i < 8 := by omega
      simp [hlow, hin, hbit, hlt]
    · have hout : ¬ (8 * k ≤ i ∧ i < 8 * k + 16) := by omega
      simp [hhigh, hlow, hout]

/-- The bit that R176 puts at buffer bit `i`: bit `2 - i % 3` of the value of character `i / 3`, and 0 behind the last character. -/
def fieldBit (chars : List Byte) (i : Nat) : Bool := (chars[i / 3]?).elim false fun c => (fieldValue c).getLsbD (2 - i % 3)

theorem fieldBit_eq_false {chars : List Byte} {i : Nat} (h : 3 * chars.length ≤ i) : fieldBit chars i = false := by
  rw [fieldBit, List.getElem?_eq_none (by omega)]
  rfl

/-- One more character fills the next three bits. -/
theorem fieldBit_concat (chars : List Byte) (c : Byte) (i : Nat) :
    fieldBit (chars ++ [c]) i =
      (fieldBit chars i ||
        (decide (3 * chars.length ≤ i ∧ i < 3 * chars.length + 3) && (fieldValue c).getLsbD (3 * chars.length + 2 - i))) := by
  rcases Nat.lt_trichotomy (i / 3) chars.length with hlt | heq | hgt
  · have hout : ¬ 3 * chars.length ≤ i := by omega
    simp [fieldBit, List.getElem?_append_left hlt, hout]
  · have hin : 3 * chars.length ≤ i ∧ i < 3 * chars.length + 3 := by omega
    have hbit : 2 - i % 3 = 3 * chars.length + 2 - i := by omega
    rw [fieldBit_eq_false hin.1]
    simp [fieldBit, heq, hin, hbit]
  · have hout : ¬ i < 3 * chars.length + 3 := by omega
    have hcount : (chars ++ [c]).length = chars.length + 1 := List.length_append
    rw [fieldBit_eq_false (by omega), fieldBit_eq_false (by omega)]
    simp [hout]

/-- Where the loop of `pack` stands after `chars`: the next character goes to buffer bit `3 * chars.length`, which the index `b` and
the cursor say together, and the buffer holds the bits of `chars`. Only before the first carry is the cursor above 7. -/
structure PackedSoFar (chars : List Byte) (r : PackRun) : Prop where
  nonneg : 0 ≤ r.cursor
  carried : r.cursor ≤ 7 ∨ (r.b = 0 ∧ r.cursor ≤ 13)
  position : 8 * (r.b : Int) + 13 = 3 * chars.length + r.cursor
  bits : ∀ i, bufferBit r.out i = fieldBit chars i

theorem packedSoFar_nil : PackedSoFar [] { out := rep 24 0#8, cursor := 13, b := 0 } where
  nonneg := by decide
  carried := .inr ⟨rfl, Int.le_refl 13⟩
  position := rfl
  bits i := by
    rw [fieldBit_eq_false (Nat.zero_le i), bufferBit, byteAt_rep_zero, BitVec.getLsbD_zero]

/-- A step moves the cursor three bits on, by way of a carry into the next byte when it passes the byte's end. -/
theorem packStep_position (r : PackRun) (c : Byte) :
    (r.cursor - 3 < 0 ∧ (packStep r c).cursor = r.cursor + 5 ∧ (packStep r c).b = r.b + 1) ∨
    (0 ≤ r.cursor - 3 ∧ (packStep r c).cursor = r.cursor - 3 ∧ (packStep r c).b = r.b) := by
  unfold packStep
  by_cases h : r.cursor - 3 < 0
  · exact .inl ⟨h, by simp only [if_pos h]; omega, by simp only [if_pos h]⟩
  · exact .inr ⟨by omega, by simp only [if_neg h], by simp only [if_neg h]⟩

/-- A step or-s the character's value into the window of 16 bits at byte `b`, shifted by the cursor. -/
theorem bufferBit_packStep {r : PackRun} (hb : r.b + 1 < 24) (c : Byte) (i : Nat) :
    bufferBit (packStep r c).out i =
      (bufferBit r.out i || (decide (8 * r.b ≤ i ∧ i < 8 * r.b + 16) &&
        ((fieldValue c).setWidth 16 <<< r.cursor.toNat).getLsbD (8 * r.b + 15 - i))) := by
  rw [← bufferBit_setByteAt_window r.out hb]
  by_cases h : r.cursor - 3 < 0
  · simp only [packStep, if_pos h]
  · simp only [packStep, if_neg h]

/-- Inside the window the shifted value's three bits stand where the loop says that the next character goes. -/
theorem window_getLsbD (v : BitVec 3) {b n q i : Nat} (hpos : 8 * b + 13 = 3 * n + q) (hq : q ≤ 13) :
    (decide (8 * b ≤ i ∧ i < 8 * b + 16) && (v.setWidth 16 <<< q).getLsbD (8 * b + 15 - i)) =
      (decide (3 * n ≤ i ∧ i < 3 * n + 3) && v.getLsbD (3 * n + 2 - i)) := by
  by_cases hin : 3 * n ≤ i ∧ i < 3 * n + 3
  · have hwindow : 8 * b ≤ i ∧ i < 8 * b + 16 := by omega
    have hwidth : 8 * b + 15 - i < 16 := by omega
    have hshift : ¬ 8 * b + 15 - i < q := by omega
    have hbit : 8 * b + 15 - i - q = 3 * n + 2 - i := by omega
    simp [hin, hwindow, hwidth, hshift, hbit]
  · by_cases hwindow : 8 * b ≤ i ∧ i < 8 * b + 16
    · rcases Nat.lt_or_ge (8 * b + 15 - i) q with hshift | hshift
      · simp [BitVec.getLsbD_shiftLeft, hin, hshift]
      · have hzero : v.getLsbD (8 * b + 15 - i - q) = false := BitVec.getLsbD_of_ge _ _ (by omega)
        simp [BitVec.getLsbD_shiftLeft, hin, hzero]
    · simp [hin, hwindow]

/-- The step of the induction over the characters; the buffer has room for 63 of them. -/
theorem packedSoFar_concat {chars : List Byte} {r : PackRun} (h : PackedSoFar chars r) (hlen : chars.length < 63) (c : Byte) :
    PackedSoFar (chars ++ [c]) (packStep r c) := by
  obtain ⟨hnonneg, hcarried, hpos, hbits⟩ := h
  have hb : r.b + 1 < 24 := by omega
  have hposNat : 8 * r.b + 13 = 3 * chars.length + r.cursor.toNat := by omega
  have hmove := packStep_position r c
  have hcount : (chars ++ [c]).length = chars.length + 1 := List.length_append
  refine ⟨by omega, by omega, by omega, fun i => ?_⟩
  rw [bufferBit_packStep hb, window_getLsbD _ hposNat (by omega), hbits, fieldBit_concat]

theorem packedSoFar_foldl {chars : List Byte} (hlen : chars.length ≤ 63) :
    PackedSoFar chars (chars.foldl packStep { out := rep 24 0#8, cursor := 13, b := 0 }) := by
  induction chars using List.reverseRecOn with
  | nil => exact packedSoFar_nil
  | append_singleton chars c ih =>
    rw [List.length_append, List.length_singleton] at hlen
    rw [List.foldl_append]
    exact packedSoFar_concat (ih (by omega)) hlen c

/-- R176 for every buffer bit at once. -/
theorem bufferBit_pack {chars : List Byte} (hlen : chars.length ≤ 63) (i : Nat) :
    bufferBit (pack chars) i = fieldBit chars i :=
  (packedSoFar_foldl hlen).bits i

/-- Settles O28: both parts read `fieldBit`, the closed form of `pack`, at their index. -/
theorem packPlacesThreeBitsPerCharacter : Obligations.PackPlacesThreeBitsPerCharacter := by
  refine fun chars hlen => ⟨fun k c hc j hj => ?character, fun b hlo _ => ?padding⟩
  case character =>
    have hchar : (3 * k + j) / 3 = k := by omega
    have hbit : (3 * k + j) % 3 = j := by omega
    rw [bufferBit_pack (by omega), fieldBit, hchar, hbit, hc]
    rfl
  case padding => rw [bufferBit_pack (by omega), fieldBit_eq_false (by omega)]

/-! ### The flag decoders -/

/-- The digit count is the three bits of the flags from bit 6 on, plus 1 (R180). -/
theorem digitsOf_toNat (f : BitVec 16) : (digitsOf f).toNat = f.toNat / 2 ^ 6 % 8 + 1 := by
  have hfield : ((f &&& (0x07#16 <<< 6)) >>> 6).toNat = f.toNat / 2 ^ 6 % 8 := by
    rw [BitVec.ushiftRight_and_distrib, BitVec.toNat_and, BitVec.toNat_ushiftRight, Nat.shiftRight_eq_div_pow]
    exact Nat.and_two_pow_sub_one_eq_mod _ 3
  rw [digitsOf, BitVec.toNat_add, BitVec.toNat_setWidth, hfield, BitVec.toNat_ofNat]
  omega

/-- The interval field is the two lowest bits of the flags (R181). -/
theorem flags_and_three_eq_zero_iff (f : BitVec 16) : f &&& 0x03#16 = 0#16 ↔ f.toNat % 4 = 0 := by
  have hfield : (f &&& 0x03#16).toNat = f.toNat % 4 := Nat.and_two_pow_sub_one_eq_mod _ 2
  rw [← BitVec.toNat_inj, hfield, BitVec.toNat_ofNat, Nat.zero_mod]

/-- Settles O31: the bounds follow from the formula of `digitsOf_toNat`. -/
theorem flagDecodersAreLegal : Obligations.FlagDecodersAreLegal := by
  intro f
  have hdigits := digitsOf_toNat f
  refine ⟨hdigits, by omega, by omega, fun h => ?sixty, fun h => ?thirty⟩
  case sixty => rw [intervalOf, if_pos ((flags_and_three_eq_zero_iff f).mpr h)]
  case thirty => rw [intervalOf, if_neg (mt (flags_and_three_eq_zero_iff f).mp h)]

/-! ### The checks of `DECODE` -/

theorem all_tokSlice_iff {s : State} {ok : Byte → Bool} {i j : Nat} :
    (tokSlice s i (j + 1)).all ok = true ↔ ∀ k, i ≤ k → k ≤ j → ok (tokChar s k) = true := by
  simp only [tokSlice, List.all_eq_true, List.forall_mem_map, List.mem_range]
  constructor
  · intro h k hlo hhi
    have hk := h (k - i) (by omega)
    rwa [Nat.add_sub_cancel' hlo] at hk
  · exact fun h k hk => h (i + k) (by omega) (by omega)

theorem isDecimalDigit_iff {c : Byte} : isDecimalDigit c = true ↔ 0x30 ≤ c.toNat ∧ c.toNat ≤ 0x39 := by
  simp [isDecimalDigit]

/-- All 63 field characters of the token string are decimal digits (R100). -/
theorem all_isDecimalDigit_iff {s : State} :
    (tokSlice s 13 76).all isDecimalDigit = true ↔
      ∀ k, 13 ≤ k → k ≤ 75 → 0x30 ≤ (tokChar s k).toNat ∧ (tokChar s k).toNat ≤ 0x39 := by
  simp only [all_tokSlice_iff (j := 75), isDecimalDigit_iff]

section
variable {p : Params} {s : State}

theorem tokenFault_length (h : s.tokLen.toNat ≠ p.tokenLength) : tokenFault p s = some 1#8 := if_pos h

theorem tokenFault_serial (hl : s.tokLen.toNat = p.tokenLength) (h : (tokSlice s 1 13).all isHexDigit ≠ true) :
    tokenFault p s = some 2#8 := by
  simp [tokenFault, hl, Bool.eq_false_iff.mpr h]

theorem tokenFault_field (hl : s.tokLen.toNat = p.tokenLength) (hs : (tokSlice s 1 13).all isHexDigit = true)
    (h : (tokSlice s 13 76).all isDecimalDigit ≠ true) : tokenFault p s = some 3#8 := by
  simp [tokenFault, hl, hs, Bool.eq_false_iff.mpr h]

theorem tokenFault_accepted (hl : s.tokLen.toNat = p.tokenLength) (hs : (tokSlice s 1 13).all isHexDigit = true)
    (h : (tokSlice s 13 76).all isDecimalDigit = true) : tokenFault p s = none := by
  simp [tokenFault, hl, hs, h]

end

/-! ### The `DECODE` command -/

theorem exec_decode_of_fault {s : State} {c : Byte} (h : tokenFault Config.params s = some c) :
    exec .decode s =
      .next (raise .malformedTokenString c (zeroToken { s with seed := rep 16 0#8, seedV := false, trace := [] })) := by
  rcases decodeCommand_cases Config.params s with ⟨c', hc, he⟩ | ⟨hnone, _⟩
  · cases h.symm.trans hc
    exact congrArg _ he
  · cases h.symm.trans hnone

theorem exec_decode_accepted {s : State} (h : tokenFault Config.params s = none) :
    exec .decode s = .next (succeed (storeToken { s with seed := rep 16 0#8, seedV := false, trace := [] })) := by
  rcases decodeCommand_cases Config.params s with ⟨c, hc, _⟩ | ⟨_, he⟩
  · cases h.symm.trans hc
  · exact congrArg _ he

/-- Settles O19: each outcome by the first check that fails, read as a range of characters, or by the success writes. -/
theorem decodeResult : Obligations.DecodeResult := by
  intro s
  refine ⟨fun hl => ?length, fun hl hs => ?serial, fun hl hs hf => ?field, fun hl hs hf => ?accepted⟩
  case length => exact exec_decode_of_fault (tokenFault_length hl)
  case serial => exact exec_decode_of_fault (tokenFault_serial hl (mt all_tokSlice_iff.mp hs))
  case field =>
    exact exec_decode_of_fault (tokenFault_field hl (all_tokSlice_iff.mpr hs) (mt all_isDecimalDigit_iff.mp hf))
  case accepted =>
    exact exec_decode_accepted (tokenFault_accepted hl (all_tokSlice_iff.mpr hs) (all_isDecimalDigit_iff.mpr hf))

/-- `DECODE` ends without an error only for a token string that passes its checks (R172). -/
theorem exec_decode_err_eq_zero {s t : State} (h : exec .decode s = .next t) (herr : t.err = 0#8) :
    t = succeed (storeToken { s with seed := rep 16 0#8, seedV := false, trace := [] }) := by
  cases hf : tokenFault Config.params s with
  | none =>
    cases (exec_decode_accepted hf).symm.trans h
    rfl
  | some c =>
    cases (exec_decode_of_fault hf).symm.trans h
    exact absurd herr (errorCode_ne_zero .malformedTokenString)

/-! ### The buffer bits that `DECODE` reads -/

section
variable {buf buf' : Bytes 24}

/-- The encrypted seed is the first 16 bytes (R103). -/
theorem byteAt_encSeedField (buf : Bytes 24) {i : Nat} (h : i < 16) : byteAt (encSeedField buf) i = byteAt buf i := by
  rw [encSeedField, byteAt_bytesOf _ h]
  have hbuf : i < 24 := by omega
  simp [slice, byteAt, h, hbuf]

theorem encSeedField_congr (h : ∀ b, b < 128 → bufferBit buf b = bufferBit buf' b) : encSeedField buf = encSeedField buf' := by
  refine bytes_ext fun i hi => ?_
  rw [byteAt_encSeedField buf hi, byteAt_encSeedField buf' hi]
  exact byteAt_congr fun b _ hb => h b (by omega)

theorem flagsField_congr (h : ∀ b, 128 ≤ b → b < 144 → bufferBit buf b = bufferBit buf' b) :
    flagsField buf = flagsField buf' :=
  congrArg (BitVec.ofNat 16) (extractBits_congr h)

theorem checksumField_congr (h : ∀ b, 159 ≤ b → b < 174 → bufferBit buf b = bufferBit buf' b) :
    checksumField buf = checksumField buf' :=
  congrArg (BitVec.ofNat 15) (extractBits_congr h)

end

/-- Settles O32: the three fields read bits [0,144) and [159,174) only, and `DIGITS` and `INTERVAL` are functions of `FLAGS`. -/
theorem decodeIgnoresUnusedBits : Obligations.DecodeIgnoresUnusedBits := by
  intro s s' t t' ht ht' herr herr' hbits
  have hseed := encSeedField_congr fun b hb => hbits b (.inl (by omega))
  have hflags := flagsField_congr fun b _ hb => hbits b (.inl hb)
  have hsum := checksumField_congr fun b hlo hhi => hbits b (.inr ⟨hlo, hhi⟩)
  rw [exec_decode_err_eq_zero ht herr, exec_decode_err_eq_zero ht' herr']
  exact ⟨hseed, hflags, hsum, congrArg digitsOf hflags, congrArg intervalOf hflags⟩

end Sys2Proof.Machine
end

section
/-! PROOFS of the statements about the code deriver (spec/43_code_deriver.md): the `DERIVE` command, the window arithmetic and what
the results depend on, the chain of encryptions and the selected word, its code, the calendar and the timestamp bytes. -/

namespace Sys2Proof.Machine

/-! ### The `DERIVE` command -/

section
variable {s : State}

theorem deriveFault_digits (hv : s.seedV = true) (hd : digitsLegal s ≠ true) :
    deriveFault s = some (.invalidParameter, 1#8) := by
  simp [deriveFault, hv, hd]

theorem deriveFault_interval (hv : s.seedV = true) (hd : digitsLegal s = true) (hi : intervalLegal s ≠ true) :
    deriveFault s = some (.invalidParameter, 2#8) := by
  simp [deriveFault, hv, hd, hi]

theorem deriveFault_time (hv : s.seedV = true) (hd : digitsLegal s = true) (hi : intervalLegal s = true)
    (ht : timeLegal s ≠ true) : deriveFault s = some (.invalidParameter, 3#8) := by
  simp [deriveFault, hv, hd, hi, ht]

theorem exec_derive_of_fault {e : ErrorKind} {c : Byte} (h : deriveFault s = some (e, c)) :
    exec .derive s = .next (raise e c (zeroResults s)) := by
  rcases deriveCommand_cases Config.params s with ⟨e', c', hc, he⟩ | ⟨hnone, _⟩
  · cases h.symm.trans hc
    exact congrArg _ he
  · cases h.symm.trans hnone

theorem exec_derive_legal (h : deriveFault s = none) : exec .derive s = .next (succeed (storeResults Config.params s)) := by
  rcases deriveCommand_cases Config.params s with ⟨e, c, hc, _⟩ | ⟨_, he⟩
  · cases h.symm.trans hc
  · exact congrArg _ he

/-- `DERIVE` ends without an error only when its operands are legal (R192). -/
theorem exec_derive_err_eq_zero {t : State} (h : exec .derive s = .next t) (herr : t.err = 0#8) :
    deriveFault s = none ∧ t = succeed (storeResults Config.params s) := by
  cases hf : deriveFault s with
  | none =>
    cases (exec_derive_legal hf).symm.trans h
    exact ⟨rfl, rfl⟩
  | some fault =>
    cases (exec_derive_of_fault hf).symm.trans h
    exact absurd herr (errorCode_ne_zero fault.1)

end

/-- Settles O20: each outcome by the first check that fails, read as a range of numbers, or by the success writes. -/
theorem deriveResult : Obligations.DeriveResult := by
  refine fun s => ⟨fun hv => exec_derive_not_ready hv, fun hv hd => ?digits, fun hv hd hi => ?interval,
    fun hv hd hi ht => ?time, fun hv hd hi ht => ?legal⟩
  case digits => exact exec_derive_of_fault (deriveFault_digits hv (mt digitsLegal_iff.mp hd))
  case interval =>
    exact exec_derive_of_fault (deriveFault_interval hv (digitsLegal_iff.mpr hd) (mt intervalLegal_iff_toNat.mp hi))
  case time =>
    exact exec_derive_of_fault
      (deriveFault_time hv (digitsLegal_iff.mpr hd) (intervalLegal_iff_toNat.mpr hi) (mt timeLegal_iff.mp ht))
  case legal =>
    exact exec_derive_legal
      (deriveFault_eq_none.mpr ⟨hv, digitsLegal_iff.mpr hd, intervalLegal_iff_toNat.mpr hi, timeLegal_iff.mpr ht⟩)

/-! ### The window arithmetic -/

/-- The anchor is where the superwindow of `4 * I` seconds begins (R194). -/
theorem anchorOf_eq (T I : Nat) : anchorOf T I = 4 * I * (T / (4 * I)) :=
  (Nat.eq_sub_of_add_eq (Nat.div_add_mod T (4 * I))).symm

/-- The sub-index is the number of the bucket inside its superwindow (R194). -/
theorem subIndexOf_eq (T I : Nat) : subIndexOf T I = T / I % 4 := by
  rw [subIndexOf, Nat.mul_comm 4 I, Nat.mod_mul_right_div_self]

/-- Settles O33: a quotient and a remainder by `4 * I`, which is 120 or 240. -/
theorem windowArithmetic : Obligations.WindowArithmetic := by
  intro T I hI
  rw [anchorOf_eq, subIndexOf]
  rcases hI with rfl | rfl <;> omega

/-- Times of one superwindow have one anchor. -/
theorem anchorOf_congr {T T' I : Nat} (h : T / (4 * I) = T' / (4 * I)) : anchorOf T I = anchorOf T' I := by
  rw [anchorOf_eq, anchorOf_eq, h]

/-- Times of one bucket have one sub-index. -/
theorem subIndexOf_congr {T T' I : Nat} (h : T / I = T' / I) : subIndexOf T I = subIndexOf T' I := by
  rw [subIndexOf_eq, subIndexOf_eq, h]

/-- A bucket lies in one superwindow. -/
theorem superwindow_of_bucket {T T' I : Nat} (h : T / I = T' / I) : T / (4 * I) = T' / (4 * I) := by
  rw [Nat.mul_comm, ← Nat.div_div_eq_div_mul, ← Nat.div_div_eq_div_mul, h]

/-! ### What the results depend on -/

section
variable {s s' : State}

/-- The timestamp bytes and the derivation output depend on the anchor, the seed and the serial suffix (R202). -/
theorem storeResults_superwindow (p : Params) (hseed : s.seed = s'.seed) (hsuffix : serialSuffix s = serialSuffix s')
    (hanchor : anchorOf s.time.toNat s.interval.toNat = anchorOf s'.time.toNat s'.interval.toNat) :
    (storeResults p s).timeBcd = (storeResults p s').timeBcd ∧ (storeResults p s).kdOut = (storeResults p s').kdOut ∧
      (storeResults p s).trace = (storeResults p s').trace := by
  simp [hseed, hsuffix, hanchor]

/-- The word and its code depend on the sub-index and on `DIGITS` besides (R202). -/
theorem storeResults_bucket (p : Params) (hkd : (storeResults p s).kdOut = (storeResults p s').kdOut)
    (hdigits : s.digits = s'.digits)
    (hsub : subIndexOf s.time.toNat s.interval.toNat = subIndexOf s'.time.toNat s'.interval.toNat) :
    (storeResults p s).subIdx = (storeResults p s').subIdx ∧ (storeResults p s).codeBin = (storeResults p s').codeBin ∧
      (storeResults p s).code = (storeResults p s').code := by
  rw [storeResults_kdOut, storeResults_kdOut] at hkd
  simp [hkd, hdigits, hsub]

theorem serialSuffix_congr (h : ∀ k, 2 ≤ k → k < 6 → byteAt s.serial k = byteAt s'.serial k) :
    serialSuffix s = serialSuffix s' := by
  refine List.ext_getElem (by simp [serialSuffix, slice]) fun i hi hi' => ?_
  have hi4 : i < 4 := by simpa [serialSuffix, slice] using hi
  have hbyte := h (2 + i) (by omega) (by omega)
  rw [byteAt_eq_getElem _ (by omega), byteAt_eq_getElem _ (by omega)] at hbyte
  simpa [serialSuffix, slice] using hbyte

/-- The checks of `DERIVE` look at `SEEDV`, `DIGITS`, `INTERVAL` and `TIME` only. -/
theorem deriveFault_congr (hv : s.seedV = s'.seedV) (hdigits : s.digits = s'.digits) (hinterval : s.interval = s'.interval)
    (htime : s.time = s'.time) : deriveFault s = deriveFault s' := by
  have hd : digitsLegal s = digitsLegal s' := by rw [digitsLegal, digitsLegal, hdigits]
  have hi : intervalLegal s = intervalLegal s' := by rw [intervalLegal, intervalLegal, hinterval]
  have ht : timeLegal s = timeLegal s' := by rw [timeLegal, timeLegal, htime]
  rw [deriveFault, deriveFault, hv, hd, hi, ht]

end

/-- Settles O34: one superwindow has one anchor, and one bucket lies in it and has one sub-index besides. -/
theorem sameWindowSameResults : Obligations.SameWindowSameResults := by
  intro s t t' T' ht ht' herr herr'
  obtain ⟨_, rfl⟩ := exec_derive_err_eq_zero ht herr
  obtain ⟨_, rfl⟩ := exec_derive_err_eq_zero ht' herr'
  have superwindow (h : s.time.toNat / (4 * s.interval.toNat) = T'.toNat / (4 * s.interval.toNat)) :=
    storeResults_superwindow (s := s) (s' := { s with time := T' }) Config.params rfl rfl (anchorOf_congr h)
  constructor
  · intro hbucket
    obtain ⟨hstamp, hkd, _⟩ := superwindow (superwindow_of_bucket hbucket)
    obtain ⟨hsub, hword, hcode⟩ := storeResults_bucket Config.params hkd rfl (subIndexOf_congr hbucket)
    exact ⟨hstamp, hsub, hkd, hword, hcode⟩
  · intro hsuper
    obtain ⟨hstamp, hkd, _⟩ := superwindow hsuper
    exact ⟨hstamp, hkd⟩

/-- Settles O35: the checks agree, so both runs end with one error and zeros, or both with results of the same operands. -/
theorem deriveDependsOnItsOperands : Obligations.DeriveDependsOnItsOperands := by
  intro s s' t t' hv hseed hserial hdigits hinterval htime ht ht'
  have hfault := deriveFault_congr hv hdigits hinterval htime
  cases hf : deriveFault s' with
  | some fault =>
    cases (exec_derive_of_fault (hfault.trans hf)).symm.trans ht
    cases (exec_derive_of_fault hf).symm.trans ht'
    exact ⟨rfl, rfl, rfl, rfl, rfl, rfl, rfl, rfl, rfl⟩
  | none =>
    cases (exec_derive_legal (hfault.trans hf)).symm.trans ht
    cases (exec_derive_legal hf).symm.trans ht'
    obtain ⟨hstamp, hkd, htrace⟩ :=
      storeResults_superwindow Config.params hseed (serialSuffix_congr hserial) (by rw [htime, hinterval])
    obtain ⟨hsub, hword, hcode⟩ := storeResults_bucket Config.params hkd hdigits (by rw [htime, hinterval])
    exact ⟨hstamp, hsub, hkd, hword, hcode, rfl, rfl, rfl, htrace⟩

/-! ### The chain and the selected word -/

/-- Settles O43: the fold over the five lengths of R199, written out. -/
theorem derivationChainOfFiveRounds : Obligations.DerivationChainOfFiveRounds :=
  fun _ _ _ _ => ⟨rfl, rfl⟩

/-- The four bytes of a word share no bit, so their union is their sum (R109). -/
theorem word32_toNat (b0 b1 b2 b3 : Byte) :
    (word32 b0 b1 b2 b3).toNat = b0.toNat * 2 ^ 24 + b1.toNat * 2 ^ 16 + b2.toNat * 2 ^ 8 + b3.toNat := by
  have shifted (b : Byte) {k : Nat} (hk : k ≤ 24) : (b.setWidth 32 <<< k).toNat = b.toNat <<< k := by
    have hpow : 2 ^ k ≤ 2 ^ 24 := Nat.pow_le_pow_right (by decide) hk
    have hprod : b.toNat * 2 ^ k ≤ 255 * 2 ^ 24 := Nat.mul_le_mul (by omega) hpow
    simp only [BitVec.toNat_shiftLeft, BitVec.toNat_setWidth, Nat.shiftLeft_eq]
    rw [Nat.mod_eq_of_lt (a := b.toNat) (by omega), Nat.mod_eq_of_lt (by omega)]
  have hlow : (b3.setWidth 32).toNat = b3.toNat := by
    rw [BitVec.toNat_setWidth]
    omega
  rw [word32, BitVec.toNat_or, BitVec.toNat_or, BitVec.toNat_or, shifted b0 (by decide), shifted b1 (by decide),
    shifted b2 (by decide), hlow, Nat.or_assoc, Nat.or_assoc, ← Nat.shiftLeft_add_eq_or_of_lt (a := b2.toNat) (by omega),
    ← Nat.shiftLeft_add_eq_or_of_lt (a := b1.toNat) (by omega),
    ← Nat.shiftLeft_add_eq_or_of_lt (a := b0.toNat) (by omega)]
  omega

/-- Settles O44: the word is four bytes of the block, whatever the index. -/
theorem wordIsBigEndianSlice : Obligations.WordIsBigEndianSlice :=
  fun _ _ _ => word32_toNat _ _ _ _

/-! ### The code -/

/-- Cut to its last `d` digits, the word has the decimal digits that it had (R201). -/
theorem codeChar_eq (w : BitVec 32) {d j : Nat} (h : j < d) :
    codeChar w d j = BitVec.ofNat 8 (0x30 + w.toNat / 10 ^ (d - 1 - j) % 10) := by
  have hd : d = d - 1 - j + (j + 1) := by omega
  have hpow : 10 ^ d = 10 ^ (d - 1 - j) * 10 ^ (j + 1) := by rw [← Nat.pow_add, ← hd]
  have hcut : w.toNat % 10 ^ d / 10 ^ (d - 1 - j) = w.toNat / 10 ^ (d - 1 - j) % 10 ^ (j + 1) := by
    rw [hpow, Nat.mod_mul_right_div_self]
  rw [codeChar, hcut, Nat.mod_mod_of_dvd _ (Dvd.intro_left _ (Nat.pow_succ ..).symm)]

theorem byteAt_codeBytes_digit (w : BitVec 32) {d j : Nat} (hd : d ≤ 8) (h : j < d) :
    byteAt (codeBytes w d) j = BitVec.ofNat 8 (0x30 + w.toNat / 10 ^ (d - 1 - j) % 10) := by
  have hj : j < 8 := by omega
  simp [byteAt, codeBytes, hj, h, codeChar_eq]

theorem byteAt_codeBytes_rest (w : BitVec 32) {d j : Nat} (h : d ≤ j) (hj : j < 8) : byteAt (codeBytes w d) j = 0#8 := by
  have hd : ¬ j < d := by omega
  simp [byteAt, codeBytes, hj, hd]

/-- Settles O36: the digit at an index depends on its distance from the last one only. -/
theorem codeShape : Obligations.CodeShape := by
  refine fun w d _ hd => ⟨fun j hj => ?digit, fun j => byteAt_codeBytes_rest w, fun j hj => ?tail⟩
  case digit =>
    have hlt : w.toNat / 10 ^ (d - 1 - j) % 10 < 10 := Nat.mod_lt _ (by decide)
    rw [byteAt_codeBytes_digit w hd hj, BitVec.toNat_ofNat]
    omega
  case tail =>
    have hindex : 8 - 1 - (8 - d + j) = d - 1 - j := by omega
    rw [byteAt_codeBytes_digit w hd hj, byteAt_codeBytes_digit w (Nat.le_refl 8) (by omega), hindex]

/-- The used bytes of `CODE` are the decimal characters of the word. -/
theorem take_codeBytes (w : BitVec 32) {d : Nat} (hd : d ≤ 8) : (codeBytes w d).toList.take d = decimalChars d w.toNat := by
  refine List.ext_getElem (by simp [decimalChars, hd]) fun j hj hj' => ?_
  have hjd : j < d := by simpa [decimalChars] using hj'
  have hbyte := byteAt_codeBytes_digit w hd hjd
  rw [byteAt_eq_getElem _ (by omega)] at hbyte
  simpa [decimalChars] using hbyte

/-! ### Decimal numerals -/

/-- The character of a decimal digit (R16). -/
theorem digitChar_code : ∀ k < 10, BitVec.ofNat 8 (Nat.digitChar k).toNat = BitVec.ofNat 8 (0x30 + k) := by
  decide

theorem decimalNumeral_of_lt {n : Nat} (h : n < 10) : decimalNumeral n = [BitVec.ofNat 8 (0x30 + n)] := by
  rw [decimalNumeral, Nat.toDigits_of_lt_base h, List.map_singleton, digitChar_code n h]

theorem decimalNumeral_of_le {n : Nat} (h : 10 ≤ n) :
    decimalNumeral n = decimalNumeral (n / 10) ++ [BitVec.ofNat 8 (0x30 + n % 10)] := by
  rw [decimalNumeral, Nat.toDigits_of_base_le (by decide) h, List.map_append, List.map_singleton,
    digitChar_code (n % 10) (Nat.mod_lt n (by decide))]
  rfl

theorem decimalChars_succ (d n : Nat) :
    decimalChars (d + 1) n = decimalChars d (n / 10) ++ [BitVec.ofNat 8 (0x30 + n % 10)] := by
  have hfront : ∀ j ∈ List.range d, n / 10 ^ (d + 1 - 1 - j) = n / 10 / 10 ^ (d - 1 - j) := by
    intro j hj
    have hpow : d + 1 - 1 - j = d - 1 - j + 1 := by
      have := List.mem_range.mp hj
      omega
    rw [hpow, Nat.pow_succ', Nat.div_div_eq_div_mul]
  rw [decimalChars, List.range_succ, List.map_append, List.map_singleton, decimalChars]
  congr 1
  · exact List.map_congr_left fun j hj => by rw [hfront j hj]
  · simp

/-- Of zero all characters are `'0'`. -/
theorem decimalChars_zero (d : Nat) : decimalChars d 0 = List.replicate d 0x30#8 := by
  simp [decimalChars, List.map_const']

/-- The last `d` elements of a list with `a` filled in on the left, when one more stands at its end. -/
theorem leftpad_drop_concat {α : Type} (l : List α) (x a : α) (d : Nat) :
    ((l ++ [x]).drop ((l ++ [x]).length - (d + 1))).leftpad (d + 1) a = (l.drop (l.length - d)).leftpad d a ++ [x] := by
  simp [List.leftpad, List.drop_append]

/-- The padded tail of the numeral is the digit-wise reading of the number. -/
theorem numeralTail_eq_decimalChars (n d : Nat) : numeralTail n d = decimalChars d n := by
  induction d generalizing n with
  | zero => simp [numeralTail, decimalChars]
  | succ d ih =>
    rw [decimalChars_succ, ← ih]
    rcases Nat.lt_or_ge n 10 with h | h
    · rw [ih, Nat.div_eq_of_lt h, decimalChars_zero, Nat.mod_eq_of_lt h, numeralTail, decimalNumeral_of_lt h]
      simp [List.leftpad]
    · rw [numeralTail, decimalNumeral_of_le h]
      exact leftpad_drop_concat _ _ _ d

/-- Settles O37: both sides are the decimal characters of the word. -/
theorem codeIsDecimalTail : Obligations.CodeIsDecimalTail := by
  intro w d _ hd
  rw [take_codeBytes w hd, numeralTail_eq_decimalChars]

/-! ### The calendar -/

theorem isLeapYear_iff_dvd {y : Nat} : isLeapYear y = true ↔ 4 ∣ y ∧ (100 ∣ y → 400 ∣ y) := by
  simp only [isLeapYear, Bool.and_eq_true, Bool.or_eq_true, beq_iff_eq, bne_iff_ne, Nat.dvd_iff_mod_eq_zero]
  tauto

/-- The days from 1 March of year 0 to 1 March of year `y`: where years begin in March, a leap day is the last day of its year. -/
def marchStart (y : Nat) : Nat := 365 * y + y / 4 - y / 100 + y / 400

/-- The days of the year that begins on 1 March of year `y`. -/
def marchYearDays (y : Nat) : Nat := if isLeapYear (y + 1) then 366 else 365

theorem marchYearDays_le (y : Nat) : marchYearDays y ≤ 366 := by
  unfold marchYearDays
  split <;> decide

/-- The days from 1 March to the first day of month `mp`, March being month 0 (R195). -/
def monthStart (mp : Nat) : Nat := (153 * mp + 2) / 5

/-- The date of day `d` of month `mp` of the year that begins in March of year `y`, both counted from 0. -/
def marchDate (y mp d : Nat) : CivilDate :=
  { year := if mp < 10 then y else y + 1, month := if mp < 10 then mp + 3 else mp - 9, day := d + 1 }

/-- The days of that month in the Gregorian calendar. -/
def marchMonthDays (y mp : Nat) : Nat := daysInMonth (marchDate y mp 0).year (marchDate y mp 0).month

theorem marchStart_succ (y : Nat) : marchStart (y + 1) = marchStart y + marchYearDays y := by
  have hcentury : y / 100 ≤ y / 4 := Nat.div_le_div_left (by decide) (by decide)
  have h4 : 100 ∣ y + 1 → 4 ∣ y + 1 := Nat.dvd_trans (by decide)
  have h100 : 400 ∣ y + 1 → 100 ∣ y + 1 := Nat.dvd_trans (by decide)
  simp only [marchStart, marchYearDays, isLeapYear_iff_dvd, Nat.succ_div]
  by_cases hfour : 4 ∣ y + 1
  · by_cases hhundred : 100 ∣ y + 1
    · by_cases hfourhundred : 400 ∣ y + 1
      · rw [if_pos hfour, if_pos hhundred, if_pos hfourhundred, if_pos ⟨hfour, fun _ => hfourhundred⟩]
        omega
      · rw [if_pos hfour, if_pos hhundred, if_neg hfourhundred, if_neg fun hleap => hfourhundred (hleap.2 hhundred)]
        omega
    · rw [if_pos hfour, if_neg hhundred, if_neg (mt h100 hhundred), if_pos ⟨hfour, fun hdvd => absurd hdvd hhundred⟩]
      omega
  · rw [if_neg hfour, if_neg (mt h4 hfour), if_neg (mt h100 (mt h4 hfour)), if_neg fun hleap => hfour hleap.1]
    omega

theorem marchStart_mono : Monotone marchStart :=
  monotone_nat_of_le_succ fun y => by rw [marchStart_succ]; exact Nat.le_add_right _ _

/-- R195's month starts leave each month from March to January its days. -/
theorem monthStart_succ (y : Nat) {mp : Nat} (h : mp < 11) : monthStart (mp + 1) = monthStart mp + marchMonthDays y mp := by
  interval_cases mp <;> rfl

/-- February, the last month, has what is left of the year. -/
theorem marchYearDays_eq (y : Nat) : marchYearDays y = monthStart 11 + marchMonthDays y 11 := by
  cases h : isLeapYear (y + 1) <;> simp [marchYearDays, monthStart, marchMonthDays, marchDate, daysInMonth, h]

theorem marchMonthDays_pos (y mp : Nat) : 0 < marchMonthDays y mp := by
  unfold marchMonthDays daysInMonth
  split_ifs <;> decide

theorem monthStart_mono : Monotone monthStart := fun _ _ h => Nat.div_le_div_right (by omega)

/-- Day number `z`, counted from 1 March of year 0, is day `d` of month `mp` of the year `y` that begins in March. -/
structure IsMarchDay (z y mp d : Nat) : Prop where
  month : mp < 12
  day : d < marchMonthDays y mp
  count : z = marchStart y + (monthStart mp + d)

section
variable {z y mp d : Nat} (h : IsMarchDay z y mp d)
include h

theorem IsMarchDay.month_days : monthStart mp + d < monthStart (mp + 1) := by
  obtain ⟨hmp, hd, _⟩ := h
  rcases Nat.lt_or_eq_of_le (Nat.lt_succ_iff.mp hmp) with hlt | rfl
  · rw [monthStart_succ y hlt]
    omega
  · have hfeb := marchYearDays_eq y
    have hyear := marchYearDays_le y
    have hend : monthStart (11 + 1) = 367 := rfl
    omega

theorem IsMarchDay.year_days : monthStart mp + d < marchYearDays y := by
  obtain ⟨hmp, hd, _⟩ := h
  rw [marchYearDays_eq]
  rcases Nat.lt_or_eq_of_le (Nat.lt_succ_iff.mp hmp) with hlt | rfl
  · have hnext := monthStart_succ y hlt
    have hmono : monthStart (mp + 1) ≤ monthStart 11 := monthStart_mono hlt
    omega
  · omega

/-- The next day, by the calendar's own rule: the month's next day, or the next month's first, or the next year's first. -/
theorem IsMarchDay.succ :
    ∃ y' mp' d', IsMarchDay (z + 1) y' mp' d' ∧ nextDate (marchDate y mp d) = marchDate y' mp' d' := by
  obtain ⟨hmp, hd, hz⟩ := h
  by_cases hlast : d + 1 < marchMonthDays y mp
  · exact ⟨y, mp, d + 1, ⟨hmp, hlast, by omega⟩, if_pos hlast⟩
  · have hnext : nextDate (marchDate y mp d) = _ := if_neg hlast
    rw [hnext]
    rcases Nat.lt_or_eq_of_le (Nat.lt_succ_iff.mp hmp) with hlt | rfl
    · have hmonth := monthStart_succ y hlt
      refine ⟨y, mp + 1, 0, ⟨by omega, marchMonthDays_pos y (mp + 1), by omega⟩, ?_⟩
      interval_cases mp <;> rfl
    · have hfeb := marchYearDays_eq y
      have hyear := marchStart_succ y
      have hfirst : monthStart 0 = 0 := rfl
      exact ⟨y + 1, 0, 0, ⟨by decide, marchMonthDays_pos (y + 1) 0, by omega⟩, rfl⟩

end

/-! ### R195's formulas -/

/-- An era is 400 years of 146097 days, and its years are as long as those of the first. -/
theorem marchStart_era (e r : Nat) : marchStart (400 * e + r) = 146097 * e + marchStart r := by
  unfold marchStart
  omega

theorem marchYearDays_era (e r : Nat) : marchYearDays (400 * e + r) = marchYearDays r := by
  have hleap : isLeapYear (400 * e + r + 1) = isLeapYear (r + 1) := by
    rw [Bool.eq_iff_iff, isLeapYear_iff_dvd, isLeapYear_iff_dvd]
    omega
  rw [marchYearDays, hleap, marchYearDays]

theorem dayOfEra_lt {r doy : Nat} (hr : r < 400) (hdoy : doy < marchYearDays r) : marchStart r + doy < 146097 :=
  calc marchStart r + doy < marchStart r + marchYearDays r := Nat.add_lt_add_left hdoy _
    _ = marchStart (r + 1) := (marchStart_succ r).symm
    _ ≤ marchStart 400 := marchStart_mono hr
    _ = 146097 := rfl

/-- Inside an era, year `100 * c + 4 * q + k` begins after `c` centuries, `q` spans of four years and `k` years, and only a leap
year has a day 365. -/
theorem yearOfEra_of_digits {c q k doy doe : Nat} (hc : c < 4) (hq : q < 25) (hk : k < 4)
    (hdoy : doy < 365 ∨ (doy = 365 ∧ k = 3 ∧ (q ≠ 24 ∨ c = 3))) (hdoe : doe = 36524 * c + 1461 * q + 365 * k + doy) :
    (doe - doe / 1460 + doe / 36524 - doe / 146096) / 365 = 100 * c + 4 * q + k := by
  have hspans : doe / 1460 = 25 * c + q + (24 * c + q + 365 * k + doy) / 1460 := by omega
  have hcenturies : doe / 36524 = c + doe / 146096 := by
    have hlast : (doe = 146096 ∧ c = 3) ∨ doe < 36524 * (c + 1) := by omega
    rcases hlast with ⟨rfl, rfl⟩ | hlt
    · rfl
    · omega
  rw [hspans, hcenturies]
  omega

/-- R195's year of the era, from the days before the year and the day of the year. -/
theorem yearOfEra_eq {r doy doe : Nat} (hr : r < 400) (hdoy : doy < marchYearDays r) (hdoe : doe = marchStart r + doy) :
    (doe - doe / 1460 + doe / 36524 - doe / 146096) / 365 = r := by
  obtain ⟨c, q, k, hc, hq, hk, rfl⟩ : ∃ c q k, c < 4 ∧ q < 25 ∧ k < 4 ∧ r = 100 * c + 4 * q + k :=
    ⟨r / 100, r % 100 / 4, r % 4, by omega, by omega, by omega, by omega⟩
  have hstart : marchStart (100 * c + 4 * q + k) = 36524 * c + 1461 * q + 365 * k := by
    unfold marchStart
    omega
  refine yearOfEra_of_digits hc hq hk ?_ (hstart ▸ hdoe)
  unfold marchYearDays at hdoy
  split at hdoy
  · rename_i hleap
    rw [isLeapYear_iff_dvd] at hleap
    omega
  · exact .inl hdoy

/-- R195's month, from the day of the year. -/
theorem monthOfYear_eq {doy mp : Nat} (hlo : monthStart mp ≤ doy) (hhi : doy < monthStart (mp + 1)) :
    (5 * doy + 2) / 153 = mp := by
  unfold monthStart at hlo hhi
  omega

/-- R195's algorithm gives the date of its day. -/
theorem civilOfDays_eq_marchDate {n y mp d : Nat} (h : IsMarchDay (n + 719468) y mp d) : civilOfDays n = marchDate y mp d := by
  have hyear := h.year_days
  have hmonth := monthOfYear_eq (Nat.le_add_right _ _) h.month_days
  obtain ⟨hmp, _, hcount⟩ := h
  obtain ⟨e, r, hr, rfl⟩ : ∃ e r, r < 400 ∧ y = 400 * e + r := ⟨y / 400, y % 400, Nat.mod_lt y (by decide), by omega⟩
  rw [marchStart_era] at hcount
  rw [marchYearDays_era] at hyear
  have hinEra := dayOfEra_lt hr hyear
  have hera : (n + 719468) / 146097 = e := by omega
  have hdoe : n + 719468 - e * 146097 = marchStart r + (monthStart mp + d) := by omega
  have hyoe := yearOfEra_eq hr hyear rfl
  have hstart : marchStart r = 365 * r + r / 4 - r / 100 := by unfold marchStart; omega
  have hdoy : marchStart r + (monthStart mp + d) - (365 * r + r / 4 - r / 100) = monthStart mp + d := by omega
  have hday : monthStart mp + d - (153 * mp + 2) / 5 + 1 = d + 1 := by unfold monthStart; omega
  have hera' : r + e * 400 = 400 * e + r := by omega
  rcases Nat.lt_or_ge mp 10 with hbefore | hafter
  · have hsame : ¬ mp + 3 ≤ 2 := by omega
    simp only [civilOfDays, hera, hdoe, hyoe, hdoy, hmonth, hday, hera', marchDate, if_pos hbefore, if_neg hsame]
  · have hnext : mp - 9 ≤ 2 := by omega
    simp only [civilOfDays, hera, hdoe, hyoe, hdoy, hmonth, hday, hera', marchDate, if_neg (Nat.not_lt.mpr hafter), if_pos hnext]

/-! ### The calendar's statements -/

/-- 1970-01-01 is day 0 of month 10, January, of the year that begins in March 1969 (R195). -/
theorem isMarchDay_epoch : IsMarchDay (0 + 719468) 1969 10 0 := ⟨by decide, by decide, rfl⟩

theorem exists_isMarchDay (n : Nat) : ∃ y mp d, IsMarchDay (n + 719468) y mp d := by
  induction n with
  | zero => exact ⟨_, _, _, isMarchDay_epoch⟩
  | succ n ih =>
    obtain ⟨y, mp, d, h⟩ := ih
    obtain ⟨y', mp', d', h', _⟩ := h.succ
    exact ⟨y', mp', d', Nat.add_right_comm n 719468 1 ▸ h'⟩

/-- Settles O38: the algorithm gives the date of a day, and the day after it is the next date's. -/
theorem calendarIsGregorian : Obligations.CalendarIsGregorian := by
  refine ⟨civilOfDays_eq_marchDate isMarchDay_epoch, fun n => ?_⟩
  obtain ⟨y, mp, d, h⟩ := exists_isMarchDay n
  obtain ⟨y', mp', d', h', hnext⟩ := h.succ
  rw [civilOfDays_eq_marchDate h, hnext]
  exact civilOfDays_eq_marchDate (Nat.add_right_comm n 719468 1 ▸ h')

/-- Day numbers from 1970-01-01 to 9999-12-31 belong to dates of the years 1970 to 9999. -/
theorem IsMarchDay.year_range {z y mp d : Nat} (h : IsMarchDay z y mp d) (hlo : 719468 ≤ z) (hhi : z ≤ 3652364) :
    1970 ≤ (marchDate y mp d).year ∧ (marchDate y mp d).year ≤ 9999 := by
  have hyear := h.year_days
  have hmonth := h.month_days
  obtain ⟨hmp, _, hcount⟩ := h
  have hsucc := marchStart_succ y
  have h1969 : marchStart 1969 = 719162 := rfl
  have h9999 : marchStart 9999 = 3652059 := rfl
  have h10000 : marchStart 10000 = 3652425 := rfl
  have hjanuary : monthStart 10 = 306 := rfl
  have hfrom : 1969 ≤ y := by
    by_contra hy
    have hend : marchStart (y + 1) ≤ marchStart 1969 := marchStart_mono (by omega)
    omega
  have hto : y ≤ 9999 := by
    by_contra hy
    have hbegin : marchStart 10000 ≤ marchStart y := marchStart_mono (by omega)
    omega
  simp only [marchDate]
  split_ifs with hbefore
  · have hend : monthStart (mp + 1) ≤ monthStart 10 := monthStart_mono hbefore
    refine ⟨?_, hto⟩
    by_contra hy
    obtain rfl : y = 1969 := by omega
    omega
  · have hbegin : monthStart 10 ≤ monthStart mp := monthStart_mono (by omega)
    refine ⟨by omega, ?_⟩
    by_contra hy
    obtain rfl : y = 9999 := by omega
    omega

theorem IsMarchDay.month_range {z y mp d : Nat} (h : IsMarchDay z y mp d) :
    1 ≤ (marchDate y mp d).month ∧ (marchDate y mp d).month ≤ 12 := by
  have hmp := h.month
  simp only [marchDate]
  split_ifs <;> omega

theorem IsMarchDay.day_range {z y mp d : Nat} (h : IsMarchDay z y mp d) :
    1 ≤ (marchDate y mp d).day ∧ (marchDate y mp d).day ≤ 31 := by
  have hmonth := h.month_days
  simp only [marchDate]
  unfold monthStart at hmonth
  omega

/-- Settles O39: the ranges of the date's day, month and year. -/
theorem calendarRange : Obligations.CalendarRange := by
  intro T hT
  obtain ⟨y, mp, d, h⟩ := exists_isMarchDay (T / 86400)
  rw [civilOfDays_eq_marchDate h]
  obtain ⟨hfrom, hto⟩ := h.year_range (by omega) (by omega)
  obtain ⟨hmonth, hmonth'⟩ := h.month_range
  exact ⟨hfrom, hto, hmonth, hmonth', h.day_range⟩

/-! ### The timestamp bytes -/

/-- A decimal digit's character is the hex digit of the same value (R101). -/
theorem hexVal_digit : ∀ k < 10, hexVal (BitVec.ofNat 8 (0x30 + k)) = BitVec.ofNat 8 k := by
  decide

/-- The two decimal characters of a number are the hex pair of its packed byte (R196). -/
theorem hexPairs_two_digits {n : Nat} (h : n < 100) (rest : List Byte) :
    hexPairs (BitVec.ofNat 8 (0x30 + n / 10) :: BitVec.ofNat 8 (0x30 + n % 10) :: rest) = bcd n :: hexPairs rest := by
  rw [hexPairs, hexVal_digit _ (by omega), hexVal_digit _ (by omega)]
  rfl

/-- The two nibbles of a packed byte share no bit, so their union is their sum. -/
theorem bcd_toNat {n : Nat} (h : n < 100) : (bcd n).toNat = n / 10 * 16 + n % 10 := by
  have hhigh : (BitVec.ofNat 8 (n / 10) <<< 4).toNat = (n / 10) <<< 4 := by
    simp only [BitVec.toNat_shiftLeft, BitVec.toNat_ofNat, Nat.shiftLeft_eq]
    omega
  have hlow : (BitVec.ofNat 8 (n % 10)).toNat = n % 10 := by
    rw [BitVec.toNat_ofNat]
    omega
  rw [bcd, BitVec.toNat_or, hhigh, hlow, ← Nat.shiftLeft_add_eq_or_of_lt (by omega), Nat.shiftLeft_eq]

/-- Settles O40: the packed byte as a hex pair and as a number. -/
theorem bcdIsHexPair : Obligations.BcdIsHexPair :=
  ⟨fun _ hn => ⟨(hexPairs_two_digits hn []).symm, bcd_toNat hn⟩, rfl⟩

theorem decimalChars_two {n : Nat} (h : n < 100) :
    decimalChars 2 n = [BitVec.ofNat 8 (0x30 + n / 10), BitVec.ofNat 8 (0x30 + n % 10)] := by
  have htens : n / 10 % 10 = n / 10 := Nat.mod_eq_of_lt (by omega)
  simp [decimalChars, List.range_succ, htens]

/-- Four characters are those of the number's hundreds and those of its rest. -/
theorem decimalChars_four (n : Nat) : decimalChars 4 n = decimalChars 2 (n / 100) ++ decimalChars 2 (n % 100) := by
  have htens : n / 10 % 10 = n % 100 / 10 := by omega
  have hones : n % 10 = n % 100 % 10 := by omega
  rw [decimalChars_succ, decimalChars_succ, decimalChars_two (Nat.mod_lt n (by decide)), htens, hones, Nat.div_div_eq_div_mul,
    List.append_assoc]
  rfl

theorem hexPairs_decimalChars_two {n : Nat} (h : n < 100) (rest : List Byte) :
    hexPairs (decimalChars 2 n ++ rest) = bcd n :: hexPairs rest := by
  rw [decimalChars_two h]
  exact hexPairs_two_digits h rest

theorem hexPairs_decimalChars_four {n : Nat} (h : n < 10000) (rest : List Byte) :
    hexPairs (decimalChars 4 n ++ rest) = bcd (n / 100) :: bcd (n % 100) :: hexPairs rest := by
  rw [decimalChars_four, List.append_assoc, hexPairs_decimalChars_two (by omega), hexPairs_decimalChars_two (by omega)]

theorem stampOf_toList (d : CivilDate) (hour minute : Nat) :
    (stampOf d hour minute).toList =
      [bcd (d.year / 100), bcd (d.year % 100), bcd d.month, bcd d.day, bcd hour, bcd minute, 0x00#8, 0x00#8] := rfl

/-- Every field of a legal time's timestamp fits its characters, so each pair of characters is a packed byte. -/
theorem hexPairs_timestampChars {anchor : Nat} (h : anchor ≤ 253402300799) :
    hexPairs (timestampChars anchor) = (timestampBytes anchor).toList := by
  obtain ⟨_, hyear, _, hmonth, _, hday⟩ := calendarRange anchor h
  have hzeros : hexPairs (decimalChars 4 0) = [0x00#8, 0x00#8] := by decide
  simp only [timestampChars, timestampBytes, stampOf_toList, List.append_assoc]
  rw [hexPairs_decimalChars_four (by omega), hexPairs_decimalChars_two (by omega), hexPairs_decimalChars_two (by omega),
    hexPairs_decimalChars_two (by omega), hexPairs_decimalChars_two (by omega), hzeros]

/-- Settles O41: an anchor is not after its time, so it is a legal time itself. -/
theorem timestampIsHexPairsOfDate : Obligations.TimestampIsHexPairsOfDate := by
  intro T I hT _
  have hanchor : anchorOf T I ≤ 253402300799 := (Nat.sub_le T _).trans hT
  exact ⟨(hexPairs_timestampChars hanchor).symm, _, _, _, _, _, rfl, rfl, rfl, stampOf_toList _ _ _⟩

end Sys2Proof.Machine
end

section
/-! PROOFS of the statements about the control commands (spec/44_control_commands.md): `NOP`, `CLEAR`, and the frame rule of every
command. -/

namespace Sys2Proof.Machine

/-! ### `NOP` and `CLEAR` -/

theorem exec_nop_eq (s : State) : exec .nop s = .next (succeed { s with trace := [] }) := rfl

/-- Settles O14: `NOP` only completes, and what a success writes is written out. -/
theorem nopResult : Obligations.NopResult := exec_nop_eq

/-- The reset state with `DONE` set, the host's turns and replies kept: what `CLEAR` leaves (R221). -/
def clearedState (s : State) : State := { State.reset with done := true, script := s.script, replies := s.replies }

theorem exec_clear_eq (s : State) : exec .clear s = .next (clearedState s) := rfl

@[simp] theorem clearedState_clearedState (s : State) : clearedState (clearedState s) = clearedState s := rfl

theorem statusByte_clearedState (s : State) : statusByte (clearedState s) = 0x02#8 :=
  calc statusByte (clearedState s)
      = statusByte (clearedState State.reset) := rfl
    _ = 0x02#8 := by decide

theorem exec_derive_clearedState (s : State) :
    exec .derive (clearedState s) = .next (raise .notReady 0#8 (zeroResults (clearedState s))) :=
  exec_derive_not_ready rfl

/-- Settles O15: the cleared state does not depend on the data before, so clearing it again gives it back, and without a verified
seed `DERIVE` is refused. -/
theorem clearResult : Obligations.ClearResult := by
  intro s
  refine ⟨clearedState s, rfl, exec_clear_eq s, statusByte_clearedState s, ?again, _, exec_derive_clearedState s, rfl, rfl⟩
  case again => rw [exec_clear_eq, clearedState_clearedState]

/-! ### The data of a register -/

/-- The data register or buffer `r` holds the same in both states (R26, R38); both buffers lie in the one buffer memory. `CMD`,
`STATUS`, `ERR` and `ERRINFO` are no data registers: nothing is asked of them. -/
def KeepsData (s t : State) : Reg → Prop
  | .cmd | .status | .err | .errInfo => True
  | .tokLen => t.tokLen = s.tokLen
  | .ver => t.ver = s.ver
  | .msgLen => t.msgLen = s.msgLen
  | .digits => t.digits = s.digits
  | .interval => t.interval = s.interval
  | .subIdx => t.subIdx = s.subIdx
  | .flags => t.flags = s.flags
  | .checksum => t.checksum = s.checksum
  | .time => t.time = s.time
  | .timeBcd => t.timeBcd = s.timeBcd
  | .serial => t.serial = s.serial
  | .codeBin => t.codeBin = s.codeBin
  | .encSeed => t.encSeed = s.encSeed
  | .seed => t.seed = s.seed
  | .digest => t.digest = s.digest
  | .kdOut => t.kdOut = s.kdOut
  | .code => t.code = s.code
  | .tokBuf | .msgBuf => t.mem = s.mem

/-- A register whose data is kept reads as before, unless it tells how a command ended. -/
theorem KeepsData.regByte_eq {s t : State} {r : Reg} (h : KeepsData s t r) (hr : isOutcomeReg r = false) (k : Nat) :
    regByte t r k = regByte s r k := by
  cases r with
  | status | err | errInfo => cases hr
  | cmd => rfl
  | _ => simp only [regByte, show _ = _ from h]

/-- A host address reads as before when the register that lies there keeps its data. -/
theorem readByte_of_keepsData {s t : State} {a : Addr}
    (h : ∀ r k, locate a = some (r, k) → KeepsData s t r ∧ isOutcomeReg r = false) : readByte t a = readByte s a := by
  unfold readByte
  split
  · rename_i r k hl
    obtain ⟨hdata, hr⟩ := h r k hl
    exact hdata.regByte_eq hr k
  · rfl

section
variable {s u : State} {r : Reg}

/-- How a command completes writes no data register. -/
@[simp] theorem keepsData_succeed : KeepsData s (succeed u) r ↔ KeepsData s u r := by
  cases r <;> exact Iff.rfl

@[simp] theorem keepsData_raise {e : ErrorKind} {c : Byte} : KeepsData s (raise e c u) r ↔ KeepsData s u r := by
  cases r <;> exact Iff.rfl

end

/-! ### What each command writes -/

section
variable {p : Params} {s t : State} {r : Reg}

theorem nopCommand_keepsData : KeepsData s (nopCommand s) r := by
  cases r <;> trivial

theorem loadCommand_keepsData : KeepsData s (loadCommand s) r := by
  have hflags (v : Bool) : KeepsData s { s with seedV := v, trace := [] } r := by cases r <;> trivial
  rcases loadCommand_cases s with ⟨_, e⟩ | ⟨_, _, e⟩ | ⟨_, _, e⟩ <;> simp [e, hflags]

theorem macCommand_keepsData (h : writesReg .mac r = false) : KeepsData s (macCommand p s) r := by
  have hdigest (d : B16) (tr : List CipherReq) : KeepsData s { s with digest := d, trace := tr } r := by
    cases r with
    | digest => cases h
    | _ => trivial
  rcases macCommand_cases p s with ⟨_, e⟩ | ⟨_, e⟩ <;> simp [e, hdigest]

theorem resolveCommand_keepsData (h : writesReg .resolve r = false) : KeepsData s (resolveCommand p s) r := by
  have hseed (d : B16) (v : Bool) (tr : List CipherReq) : KeepsData s { s with seed := d, seedV := v, trace := tr } r := by
    cases r with
    | seed => cases h
    | _ => trivial
  rcases resolveCommand_cases p s with ⟨_, e⟩ | ⟨_, e⟩ <;> simp [e, hseed]

theorem decodeCommand_keepsData (h : writesReg .decode r = false) : KeepsData s (decodeCommand p s) r := by
  rcases decodeCommand_cases p s with ⟨_, _, e⟩ | ⟨_, e⟩
  all_goals
    simp only [e, keepsData_raise, keepsData_succeed]
    cases r with
    | ver | serial | encSeed | flags | checksum | digits | interval | seed => cases h
    | _ => trivial

theorem deriveCommand_keepsData (h : writesReg .derive r = false) : KeepsData s (deriveCommand p s) r := by
  rcases deriveCommand_cases p s with ⟨_, _, _, e⟩ | ⟨_, e⟩
  all_goals
    simp only [e, keepsData_raise, keepsData_succeed]
    cases r with
    | timeBcd | subIdx | kdOut | codeBin | code => cases h
    | _ => trivial

theorem clearCommand_keepsData (h : writesReg .clear r = false) : KeepsData s (clearCommand s) r := by
  cases r with
  | cmd | status | err | errInfo => trivial
  | _ => cases h

/-- The frame of every command, register by register: what its rule does not name keeps its data (R224). -/
theorem exec_keepsData {i : Instr} (hx : exec i s = .next t) (h : writesReg i r = false) : KeepsData s t r := by
  cases i with
  | nop => cases hx; exact nopCommand_keepsData
  | mac => cases hx; exact macCommand_keepsData h
  | resolve => cases hx; exact resolveCommand_keepsData h
  | decode => cases hx; exact decodeCommand_keepsData h
  | derive => cases hx; exact deriveCommand_keepsData h
  | load => cases hx; exact loadCommand_keepsData
  | clear => cases hx; exact clearCommand_keepsData h

end

/-- No command but `CLEAR` writes the buffers, `TIME`, `TOKLEN` or `MSGLEN` (R224). -/
theorem writesReg_of_ne_clear {i : Instr} (hi : i ≠ .clear) :
    ∀ r ∈ [Reg.tokBuf, .msgBuf, .time, .tokLen, .msgLen], writesReg i r = false := by
  cases i with
  | clear => exact absurd rfl hi
  | nop | mac | resolve | decode | derive | load => decide

/-- No command but `MAC` and `CLEAR` writes `DIGEST` (R224). -/
theorem writesReg_digest {i : Instr} (hc : i ≠ .clear) (hm : i ≠ .mac) : writesReg i .digest = false := by
  cases i with
  | clear => exact absurd rfl hc
  | mac => exact absurd rfl hm
  | nop | resolve | decode | derive | load => rfl

/-- Settles O48: every clause about data is `exec_keepsData` at its registers, read as a byte, at a host address or as a field. -/
theorem commandsWriteOnlyTheirRegisters : Obligations.CommandsWriteOnlyTheirRegisters := by
  intro i s t hx
  obtain ⟨hphase, hdone, hscript, hreplies⟩ := exec_completes hx
  refine ⟨hphase, hdone, hscript, hreplies, fun r k hw hr => (exec_keepsData hx hw).regByte_eq hr k, fun a ha => ?address,
    fun hi => exec_keeps_seedV hi hx, fun hi => exec_keeps_codeV hi hx, fun hc => ?inputs,
    fun hc hm => exec_keepsData hx (writesReg_digest hc hm)⟩
  case address =>
    refine readByte_of_keepsData fun r k hl => ?_
    obtain ⟨hw, hr⟩ := ha r k hl
    exact ⟨exec_keepsData hx hw, hr⟩
  case inputs =>
    have keeps {r : Reg} (hr : r ∈ [Reg.tokBuf, .msgBuf, .time, .tokLen, .msgLen]) : KeepsData s t r :=
      exec_keepsData hx (writesReg_of_ne_clear hc r hr)
    exact ⟨keeps (r := .tokBuf) (by decide), keeps (r := .time) (by decide), keeps (r := .tokLen) (by decide),
      keeps (r := .msgLen) (by decide)⟩

end Sys2Proof.Machine
end

section
/-! PROOFS of the statements about errors (spec/60_exceptions.md): which command can raise which pair of `ERR` and `ERRINFO`, what a
failing command leaves behind, and the invariant that every step keeps. -/

namespace Sys2Proof.Machine

/-! ### The errors of each command -/

/-- A command ends without an error, or with one of its own pairs (R233). -/
theorem exec_errorPair {i : Instr} {s t : State} (h : exec i s = .next t) :
    (t.err = 0#8 ∧ t.errInfo = 0#8) ∨ (t.err, t.errInfo) ∈ errorsOf i := by
  cases i with
  | nop | clear => cases h; exact .inl ⟨rfl, rfl⟩
  | mac =>
    cases h
    rcases macCommand_cases Config.params s with ⟨_, e⟩ | ⟨_, e⟩
    · simp [e, errorsOf, errorCode]
    · simp [e]
  | resolve =>
    cases h
    rcases resolveCommand_cases Config.params s with ⟨_, e⟩ | ⟨_, e⟩
    · simp [e, errorsOf, errorCode]
    · simp [e]
  | load =>
    cases h
    rcases loadCommand_cases s with ⟨_, e⟩ | ⟨_, _, e⟩ | ⟨_, _, e⟩
    · simp [e, errorsOf, errorCode]
    · simp [e, errorsOf, errorCode]
    · simp [e]
  | decode =>
    cases h
    rcases decodeCommand_cases Config.params s with ⟨c, hc, e⟩ | ⟨_, e⟩
    · rcases tokenFault_code hc with rfl | rfl | rfl <;> simp [e, errorsOf, errorCode]
    · simp [e]
  | derive =>
    cases h
    rcases deriveCommand_cases Config.params s with ⟨_, c, hc, e⟩ | ⟨_, e⟩
    · rcases deriveFault_code hc with ⟨rfl, rfl⟩ | ⟨rfl, rfl | rfl | rfl⟩ <;> simp [e, errorsOf, errorCode]
    · simp [e]

/-- Settles O46: `exec_errorPair` for the commands, and an illegal byte reports itself. -/
theorem errorsOfEachCommand : Obligations.ErrorsOfEachCommand := by
  refine ⟨fun i s t => exec_errorPair, fun s t op hop h => ?illegal⟩
  case illegal =>
    cases (engineStep_of_seven_le hop s).symm.trans h
    exact ⟨rfl, rfl⟩

/-- Every pair that a command can raise is one of R232's. -/
theorem errorPairLegal_of_mem_errorsOf {i : Instr} : ∀ pair ∈ errorsOf i, errorPairLegal pair.1 pair.2 = true := by
  cases i with
  | nop | mac | resolve | decode | derive | load | clear => simp [errorsOf, errorPairLegal]

theorem exec_errorPairLegal {i : Instr} {s t : State} (h : exec i s = .next t) : errorPairLegal t.err t.errInfo = true := by
  rcases exec_errorPair h with ⟨herr, hinfo⟩ | hpair
  · rw [herr, hinfo]; rfl
  · exact errorPairLegal_of_mem_errorsOf _ hpair

/-- A byte that decodes to no command is one from 0x07 on (R93). -/
theorem seven_le_of_decode {op b : Byte} (h : decode op = .illegalCommand b) : 7 ≤ b.toNat := by
  have hlisted : ∀ n < 7, ∃ row ∈ opcodeMap, row.1.toNat = n := by decide
  unfold decode at h
  split at h
  · cases h
  · rename_i hnone
    cases h
    by_contra hlt
    obtain ⟨row, hrow, hbyte⟩ := hlisted op.toNat (by omega)
    exact List.find?_eq_none.mp hnone row hrow (beq_iff_eq.mpr (BitVec.eq_of_toNat_eq hbyte))

/-- Whatever byte it runs, the engine reports a pair of R232. -/
theorem engineStep_errorPairLegal {op : Byte} {s t : State} (h : engineStep op s = .next t) :
    errorPairLegal t.err t.errInfo = true := by
  rcases engineStep_cases h with ⟨i, _, hx⟩ | ⟨b, hd, rfl⟩
  · exact exec_errorPairLegal hx
  · exact decide_eq_true (seven_le_of_decode hd)

/-! ### What a failing command leaves -/

section
variable {s t : State}

theorem exec_decode_err_ne_zero (h : exec .decode s = .next t) (herr : t.err ≠ 0#8) :
    ∃ c, t = raise .malformedTokenString c (zeroToken { s with seed := rep 16 0#8, seedV := false, trace := [] }) := by
  cases hf : tokenFault Config.params s with
  | some c =>
    cases (exec_decode_of_fault hf).symm.trans h
    exact ⟨c, rfl⟩
  | none =>
    cases (exec_decode_accepted hf).symm.trans h
    exact absurd rfl herr

theorem exec_resolve_err_ne_zero (h : exec .resolve s = .next t) (herr : t.err ≠ 0#8) :
    t = raise .integrityError 0#8
      { s with seed := rep 16 0#8, seedV := false, trace := resolveTrace Config.params s.encSeed } := by
  by_cases hsum : computedChecksum Config.params s.encSeed = s.checksum
  · cases (exec_resolve_of_eq hsum).symm.trans h
    exact absurd rfl herr
  · cases (exec_resolve_of_ne hsum).symm.trans h
    rfl

theorem exec_derive_err_ne_zero (h : exec .derive s = .next t) (herr : t.err ≠ 0#8) :
    ∃ e c, t = raise e c (zeroResults s) := by
  cases hf : deriveFault s with
  | some fault =>
    cases (exec_derive_of_fault hf).symm.trans h
    exact ⟨fault.1, fault.2, rfl⟩
  | none =>
    cases (exec_derive_legal hf).symm.trans h
    exact absurd rfl herr

theorem exec_mac_err_ne_zero (h : exec .mac s = .next t) (herr : t.err ≠ 0#8) :
    t = raise .invalidParameter 4#8 { s with digest := rep 16 0#8, trace := [] } := by
  rcases Nat.lt_or_ge 256 s.msgLen.toNat with hlong | hfits
  · cases (exec_mac_of_lt hlong).symm.trans h
    rfl
  · cases (exec_mac_of_le hfits).symm.trans h
    exact absurd rfl herr

/-- An illegal command byte writes no data register (R93, R222). -/
theorem illegalCommand_keepsData {op : Byte} {r : Reg} : KeepsData s (illegalCommand op s) r := by
  cases r <;> trivial

end

/-- Settles O47: each failing command's next state is written out, and its fields are read off; `LOAD` writes no data register. -/
theorem failingCommandsFailClosed : Obligations.FailingCommandsFailClosed := by
  refine ⟨fun s t h herr => ?decode, fun s t h herr => ?resolve, fun s t h herr => ?derive, fun s t h herr => ?mac,
    fun s t h herr => ?load, fun s t op hop h => ?illegal⟩
  case decode =>
    obtain ⟨c, rfl⟩ := exec_decode_err_ne_zero h herr
    exact ⟨rfl, rfl, rfl, rfl, rfl, rfl, rfl, rfl, rfl⟩
  case resolve =>
    obtain rfl := exec_resolve_err_ne_zero h herr
    exact ⟨rfl, rfl⟩
  case derive =>
    obtain ⟨e, c, rfl⟩ := exec_derive_err_ne_zero h herr
    exact ⟨rfl, rfl, rfl, rfl, rfl, rfl⟩
  case mac =>
    obtain rfl := exec_mac_err_ne_zero h herr
    rfl
  case load =>
    have hseed : KeepsData s t .seed := exec_keepsData h rfl
    exact ⟨hseed, Bool.eq_false_iff.mpr (mt (exec_load_seedV_iff h).mp herr)⟩
  case illegal =>
    cases (engineStep_of_seven_le hop s).symm.trans h
    exact ⟨rfl, rfl, fun r k hr => illegalCommand_keepsData.regByte_eq hr k⟩

/-! ### The results of `DERIVE` -/

/-- The results of `DERIVE` fit `CODEV`: zeros without it, one derivation's results with it (R41, R192). -/
def ResultsMatchCodeV (s : State) : Prop :=
  (s.codeV = false → resultsZero s) ∧ (s.codeV = true → resultsFit s)

theorem BlockInv.resultsMatchCodeV {s : State} (h : BlockInv s) : ResultsMatchCodeV s := ⟨h.withoutCode, h.withCode⟩

section
variable {s t : State}

theorem resultsMatchCodeV_of_zero (hv : t.codeV = false) (h : resultsZero t) : ResultsMatchCodeV t :=
  ⟨fun _ => h, fun hv' => absurd (hv.symm.trans hv') Bool.false_ne_true⟩

theorem resultsMatchCodeV_of_fit (hv : t.codeV = true) (h : resultsFit t) : ResultsMatchCodeV t :=
  ⟨fun hv' => absurd (hv'.symm.trans hv) Bool.false_ne_true, fun _ => h⟩

/-- What leaves `CODEV` and the five result registers alone leaves their agreement alone. -/
theorem ResultsMatchCodeV.of_keepsData (h : ResultsMatchCodeV s) (hv : t.codeV = s.codeV)
    (hdata : ∀ r, writesReg .derive r = true → KeepsData s t r) : ResultsMatchCodeV t := by
  have hstamp : t.timeBcd = s.timeBcd := hdata .timeBcd rfl
  have hsub : t.subIdx = s.subIdx := hdata .subIdx rfl
  have hkd : t.kdOut = s.kdOut := hdata .kdOut rfl
  have hword : t.codeBin = s.codeBin := hdata .codeBin rfl
  have hcode : t.code = s.code := hdata .code rfl
  simpa only [ResultsMatchCodeV, resultsZero, resultsFit, hv, hstamp, hsub, hkd, hword, hcode] using h

/-- The last two of the timestamp bytes are zero (R107, R197). -/
theorem byteAt_timestampBytes_seconds (anchor : Nat) :
    byteAt (timestampBytes anchor) 6 = 0#8 ∧ byteAt (timestampBytes anchor) 7 = 0#8 := ⟨rfl, rfl⟩

/-- The sub-index is one of the four buckets, whatever the operands are (R194). -/
theorem subIndexOf_lt (T I : Nat) : subIndexOf T I < 4 := by
  rw [subIndexOf_eq]
  exact Nat.mod_lt _ (by decide)

/-- The success writes of `DERIVE` fit together where `DIGITS` is legal (R192). -/
theorem storeResults_fit (p : Params) (h : digitsLegal s = true) : resultsFit (storeResults p s) := by
  obtain ⟨hlo, hhi⟩ := digitsLegal_iff.mp h
  obtain ⟨h6, h7⟩ := byteAt_timestampBytes_seconds (anchorOf s.time.toNat s.interval.toNat)
  have hsub := subIndexOf_lt s.time.toNat s.interval.toNat
  have hbyte : (storeResults p s).subIdx.toNat = subIndexOf s.time.toNat s.interval.toNat := by
    rw [storeResults_subIdx, BitVec.toNat_ofNat]
    omega
  exact ⟨by rw [hbyte]; exact hsub, by rw [hbyte]; rfl, h6, h7, s.digits.toNat, hlo, hhi, rfl⟩

theorem exec_derive_resultsMatchCodeV (h : exec .derive s = .next t) : ResultsMatchCodeV t := by
  by_cases herr : t.err = 0#8
  · obtain ⟨hlegal, rfl⟩ := exec_derive_err_eq_zero h herr
    obtain ⟨_, hdigits, _, _⟩ := deriveFault_eq_none.mp hlegal
    exact resultsMatchCodeV_of_fit rfl (storeResults_fit Config.params hdigits)
  · obtain ⟨e, c, rfl⟩ := exec_derive_err_ne_zero h herr
    exact resultsMatchCodeV_of_zero rfl ⟨rfl, rfl, rfl, rfl, rfl⟩

/-- `DERIVE` and `CLEAR` make the results anew, every other command leaves them (R224). -/
theorem exec_resultsMatchCodeV {i : Instr} (h : ResultsMatchCodeV s) (hx : exec i s = .next t) : ResultsMatchCodeV t := by
  cases i with
  | derive => exact exec_derive_resultsMatchCodeV hx
  | clear =>
    cases hx
    exact resultsMatchCodeV_of_zero rfl ⟨rfl, rfl, rfl, rfl, rfl⟩
  | nop | mac | resolve | decode | load =>
    refine h.of_keepsData (exec_keeps_codeV (by decide) hx) fun r hr => exec_keepsData hx ?_
    cases r with
    | timeBcd | subIdx | kdOut | codeBin | code => rfl
    | _ => cases hr

theorem engineStep_resultsMatchCodeV {op : Byte} (h : ResultsMatchCodeV s) (he : engineStep op s = .next t) :
    ResultsMatchCodeV t := by
  rcases engineStep_cases he with ⟨i, _, hx⟩ | ⟨b, _, rfl⟩
  · exact exec_resultsMatchCodeV h hx
  · exact h.of_keepsData rfl fun _ _ => illegalCommand_keepsData

/-! ### The invariant along the engine's step -/

theorem exec_memory_wf {i : Instr} (h : Memory.wf s.mem) (hx : exec i s = .next t) : Memory.wf t.mem := by
  by_cases hi : i = .clear
  · subst hi
    cases hx
    exact reset_memory_wf
  · have hmem : KeepsData s t .tokBuf := exec_keepsData hx (writesReg_of_ne_clear hi _ (by decide))
    exact (show t.mem = s.mem from hmem) ▸ h

theorem engineStep_memory_wf {op : Byte} (h : Memory.wf s.mem) (he : engineStep op s = .next t) : Memory.wf t.mem := by
  rcases engineStep_cases he with ⟨i, _, hx⟩ | ⟨b, _, rfl⟩
  · exact exec_memory_wf h hx
  · exact h

/-- The engine's step completes its command, so nothing runs after it and an error that stands has `DONE` beside it. -/
theorem BlockInv.engineStep {op : Byte} (h : BlockInv s) (he : engineStep op s = .next t) : BlockInv t := by
  obtain ⟨hidle, hdone, _, _⟩ := engineStep_completes he
  obtain ⟨hzero, hfit⟩ := engineStep_resultsMatchCodeV h.resultsMatchCodeV he
  exact {
    memory := engineStep_memory_wf h.memory he
    errorPair := engineStep_errorPairLegal he
    errorDone := fun _ => hdone
    running := fun hbusy => absurd hidle (busy_iff.mp hbusy)
    withoutCode := hzero
    withCode := hfit }

/-! ### The invariant along the other steps -/

/-- The invariant does not speak of the turns to come or of the replies given. -/
theorem BlockInv.answered (h : BlockInv s) (turns : List Turn) (bytes : List Byte) : BlockInv (answered turns bytes s) :=
  { h with }

theorem BlockInv.withTurns (h : BlockInv s) (turns : List Turn) : BlockInv (withTurns turns s) := { h with }

theorem BlockInv.issue (h : BlockInv s) (op : Byte) : BlockInv (issue op s) :=
  { h with
    errorPair := rfl
    errorDone := fun herr => absurd rfl herr
    running := fun _ => ⟨rfl, rfl, rfl⟩ }

theorem writeReg_keepsResults {r q : Reg} (hq : writesReg .derive q = true) (i : Nat) (v : Byte) :
    KeepsData s (writeReg s r i v) q := by
  cases q with
  | timeBcd => exact writeReg_timeBcd s r i v
  | subIdx => exact writeReg_subIdx s r i v
  | kdOut => exact writeReg_kdOut s r i v
  | codeBin => exact writeReg_codeBin s r i v
  | code => exact writeReg_code s r i v
  | _ => cases hq

/-- A host write issues a command, or it is quiet: then it touches neither the errors nor the results (R63). -/
theorem BlockInv.writeReg (h : BlockInv s) (hidle : s.phase = .idle) {r : Reg} {i : Nat} (hi : i < regSize r) (v : Byte) :
    BlockInv (writeReg s r i v) := by
  by_cases hcmd : r = .cmd
  · subst hcmd
    exact h.issue v
  · obtain ⟨hphase, hdone, herr, hinfo⟩ := writeReg_quiet hcmd s i v
    obtain ⟨hzero, hfit⟩ :=
      h.resultsMatchCodeV.of_keepsData (writeReg_codeV s r i v) fun _ hq => writeReg_keepsResults hq i v
    exact {
      memory := writeReg_memory_wf h.memory hi v
      errorPair := by rw [herr, hinfo]; exact h.errorPair
      errorDone := by rw [herr, hdone]; exact h.errorDone
      running := fun hbusy => absurd (hphase.trans hidle) (busy_iff.mp hbusy)
      withoutCode := hzero
      withCode := hfit }

theorem BlockInv.writeByte (h : BlockInv s) (hidle : s.phase = .idle) (a : Addr) (v : Byte) : BlockInv (writeByte s a v) := by
  unfold Machine.writeByte
  split
  · rename_i r i hl
    exact h.writeReg hidle (locate_some hl).1 v
  · exact h

/-- A host write is enabled while the engine is idle only; a read changes nothing of the block (R62, R64). -/
theorem BlockInv.hostStep {acc : HostAccess} (h : BlockInv s) (ha : accessEnabled s acc = true) : BlockInv (hostStep s acc) := by
  cases acc with
  | read a => exact h.answered s.script [readByte s a]
  | write a v => exact h.writeByte ((accessEnabled_iff_idle (by simp)).mp ha) a v

theorem BlockInv.resetTurn : BlockInv (resetTurn s) :=
  resetMeetsInvariant.answered s.script s.replies

end

/-- Settles O3: each kind of step keeps the invariant, and the step is of one of these kinds. -/
theorem stepKeepsInvariant : Obligations.StepKeepsInvariant := by
  intro s t h hstep
  rcases step_cases hstep with ⟨op, sc, _, _, he⟩ | ⟨acc, rest, _, ha, rfl⟩ | ⟨rest, _, rfl⟩ | ⟨sc, _, _, rfl⟩
  · exact (h.withTurns sc).engineStep he
  · exact (h.withTurns rest).hostStep ha
  · exact .resetTurn
  · exact h.withTurns sc

end Sys2Proof.Machine
end

section
/-! PROOFS of the statements about reset and the order of commands (spec/70_reset_and_hazards.md): what a reset leaves of a running
command, the number of cipher requests of each command, and the two sequences of commands that end in a code. -/

namespace Sys2Proof.Machine

/-! ### Reset -/

/-- Settles O13: `step_reset` asks nothing of the phase, and the reset state is idle, so the access after it is enabled. -/
theorem resetAbandonsCommand : Obligations.ResetAbandonsCommand := by
  intro s rest hs
  refine ⟨step_reset hs, fun acc rest' hrest => ?_⟩
  have haccess : step (resetTurn (withTurns rest s)) = .next (hostStep (withTurns rest' (resetTurn (withTurns rest s))) acc) :=
    step_access hrest (accessEnabled_of_idle rfl acc)
  exact (run_succ (step_reset hs) 1).trans (run_succ haccess 0)

/-! ### The number of cipher requests -/

/-- The decryptions of a cipher trace. -/
def decryptions (trace : List CipherReq) : List CipherReq := trace.filter fun r => r.dir == .dec

theorem decryptions_eq_nil {trace : List CipherReq} (h : ∀ r ∈ trace, r.dir = .enc) : decryptions trace = [] :=
  List.filter_eq_nil_iff.mpr fun r hr => by rw [h r hr]; decide

@[simp] theorem length_message (s : State) : (message s).length = s.msgLen.toNat := by
  simp [message]

/-- The requests of the hash of `n` bytes are the feedback steps of R134, and each is an encryption. -/
theorem length_macTrace (p : Params) (data : List Byte) :
    (macTrace p data).length = data.length / 16 + 3 + data.length / 16 % 2 :=
  (macChainsFeedbackSteps p data).1

theorem decryptions_macTrace (p : Params) (data : List Byte) : decryptions (macTrace p data) = [] := by
  obtain ⟨_, hdir, _⟩ := macChainsFeedbackSteps p data
  exact decryptions_eq_nil hdir

/-- The nine requests of R153, with the one decryption among them. -/
theorem resolveTrace_counts (p : Params) (enc : B16) :
    (resolveTrace p enc).length = 9 ∧ (decryptions (resolveTrace p enc)).length = 1 := by
  obtain ⟨htrace, _⟩ := resolveTraceIsNineRequests
  obtain ⟨w2, w8, d1, d5, d6, d7, h⟩ := htrace p enc
  rw [h]
  exact ⟨rfl, rfl⟩

/-- The five encryptions of R199. -/
theorem deriveTrace_counts (p : Params) (seed : B16) (ts : Bytes 8) (suffix : List Byte) :
    (deriveTrace p seed ts suffix).length = 5 ∧ decryptions (deriveTrace p seed ts suffix) = [] := by
  obtain ⟨_, h⟩ := derivationChainOfFiveRounds p seed ts suffix
  rw [h]
  exact ⟨rfl, rfl⟩

section
variable {s t : State}

/-- The commands that never use the cipher. -/
theorem exec_trace_eq_nil {i : Instr} (hi : i ∈ [Instr.nop, .clear, .load, .decode]) (h : exec i s = .next t) : t.trace = [] := by
  cases i with
  | nop | clear => cases h; rfl
  | load =>
    cases h
    rcases loadCommand_cases s with ⟨_, he⟩ | ⟨_, _, he⟩ | ⟨_, _, he⟩ <;> rw [he] <;> rfl
  | decode =>
    cases h
    rcases decodeCommand_cases Config.params s with ⟨_, _, he⟩ | ⟨_, he⟩ <;> rw [he] <;> rfl
  | mac | resolve | derive => simp at hi

/-- `MAC` makes the requests of the hash, or none when the message is too long (R137). -/
theorem exec_mac_requests (h : exec .mac s = .next t) :
    t.trace.length = requestCount .mac s.msgLen.toNat (t.err == 0#8) ∧ decryptions t.trace = [] := by
  rcases Nat.lt_or_ge 256 s.msgLen.toNat with hlong | hfits
  · cases (exec_mac_of_lt hlong).symm.trans h
    exact ⟨rfl, rfl⟩
  · cases (exec_mac_of_le hfits).symm.trans h
    refine ⟨?_, decryptions_macTrace _ _⟩
    rw [succeed_trace, length_macTrace, length_message]
    rfl

/-- `DERIVE` makes the requests of the chain, or none when a check fails (R192). -/
theorem exec_derive_requests (h : exec .derive s = .next t) :
    t.trace.length = requestCount .derive s.msgLen.toNat (t.err == 0#8) ∧ decryptions t.trace = [] := by
  cases hf : deriveFault s with
  | none =>
    cases (exec_derive_legal hf).symm.trans h
    exact deriveTrace_counts _ _ _ _
  | some fault =>
    obtain ⟨e, c⟩ := fault
    cases (exec_derive_of_fault hf).symm.trans h
    have hfailed : (errorCode e == 0#8) = false := by simp
    exact ⟨by simp [requestCount, hfailed], rfl⟩

end

/-- Settles O45: the commands that hash, resolve or derive make the requests of their traces, the others and an illegal byte none. -/
theorem cipherRequestCounts : Obligations.CipherRequestCounts := by
  refine ⟨fun i s t h => ?command, fun s t op hop h => ?illegal⟩
  case illegal =>
    cases (engineStep_of_seven_le hop s).symm.trans h
    rfl
  case command =>
    cases i with
    | nop | clear | load | decode =>
      rw [exec_trace_eq_nil (by simp) h]
      exact ⟨rfl, rfl⟩
    | mac =>
      obtain ⟨hcount, hdec⟩ := exec_mac_requests h
      exact ⟨hcount, congrArg List.length hdec⟩
    | derive =>
      obtain ⟨hcount, hdec⟩ := exec_derive_requests h
      exact ⟨hcount, congrArg List.length hdec⟩
    | resolve =>
      rw [exec_resolve_trace h]
      exact resolveTrace_counts _ _

/-! ### A sequence of commands -/

/-- The state in which the engine runs a command that the host has just issued, with the commands `ops` still to come. -/
def started (i : Instr) (ops : List Byte) (s : State) : State := issue (encode i) (withTurns (ops.map commandTurn) s)

/-- While the host has nothing but command writes to make, the engine finishes the running command first: the next write is held
(R64), and without one the engine moves alone. -/
theorem step_running_command {i : Instr} {ops : List Byte} {s : State} (hp : s.phase = .run (encode i))
    (hs : s.script = ops.map commandTurn) : step s = exec i s := by
  have hengine : step s = engineStep (encode i) s := by
    cases ops with
    | nil => exact step_quiet hs hp
    | cons op ops => exact step_held hs hp (by simp)
  rw [hengine, engineStep_of_decode (decode_encode i)]

/-- A command out of a sequence of commands takes two steps, its issue and its execution. -/
theorem run_command (i : Instr) (ops : List Byte) {s t : State} (hp : s.phase = .idle)
    (hs : s.script = commandTurn (encode i) :: ops.map commandTurn) (hx : exec i (started i ops s) = .next t) (n : Nat) :
    Host.Core.run Sys2Proof.core (n + 2) s = Host.Core.run Sys2Proof.core n t := by
  have hissue : step s = .next (started i ops s) := step_issue hp hs
  have hexec : step (started i ops s) = .next t := (step_running_command rfl rfl).trans hx
  exact (run_succ hissue (n + 1)).trans (run_succ hexec n)

/-- Settles O59: `LOAD` passes its checks, and `DERIVE` finds the seed valid and the same legal operands. -/
theorem loadedSeedGivesCode : Obligations.LoadedSeedGivesCode := by
  intro s hp hs hlo hhi hI hT ts
  have hdigits : digitsLegal s = true := digitsLegal_iff.mpr ⟨hlo, hhi⟩
  have hinterval : intervalLegal s = true := intervalLegal_iff.mpr hI
  have htime : timeLegal s = true := timeLegal_iff.mpr hT
  have hload := exec_load_legal (s := started .load [0x04#8] s) hdigits hinterval
  have hderive := exec_derive_legal
    (s := started .derive [] (succeed { started .load [0x04#8] s with seedV := true, trace := [] }))
    (deriveFault_eq_none.mpr ⟨rfl, hdigits, hinterval, htime⟩)
  have hrun := (run_command .load [0x04#8] hp hs hload 2).trans (run_command .derive [] rfl rfl hderive 0)
  exact ⟨_, hrun, rfl, rfl, rfl, rfl, rfl, rfl, rfl⟩

/-! ### From the token string to the code -/

/-- The serial suffix that `DECODE` leaves: the pairs of the last eight of the twelve serial characters (R27, R101). -/
theorem serialSuffix_storeToken (s : State) :
    serialSuffix (storeToken s) = hexPairs ((List.range 8).map fun k => tokChar s (5 + k)) := rfl

/-- The operands that `DECODE` stores are always legal (R180, R181). -/
theorem digitsLegal_storeToken (s : State) : digitsLegal (storeToken s) = true := by
  obtain ⟨_, hlo, hhi, _⟩ := flagDecodersAreLegal (flagsField (pack (tokSlice s 13 76)))
  exact digitsLegal_iff.mpr ⟨hlo, hhi⟩

theorem intervalLegal_storeToken (s : State) : intervalLegal (storeToken s) = true := by
  obtain ⟨_, _, _, hsixty, hthirty⟩ := flagDecodersAreLegal (flagsField (pack (tokSlice s 13 76)))
  refine intervalLegal_iff.mpr ?_
  by_cases h : (flagsField (pack (tokSlice s 13 76))).toNat % 4 = 0
  · exact .inr (hsixty h)
  · exact .inl (hthirty h)

/-- The state after an accepted `DECODE`, with the commands `ops` still to come (R172). -/
def decoded (ops : List Byte) (s : State) : State :=
  succeed (storeToken { started .decode ops s with seed := rep 16 0#8, seedV := false, trace := [] })

/-- Sequence A up to the end of `DECODE`. -/
theorem run_decode {ops : List Byte} {s : State} (hp : s.phase = .idle)
    (hs : s.script = commandTurn 0x03#8 :: ops.map commandTurn) (hf : tokenFault Config.params s = none) (n : Nat) :
    Host.Core.run Sys2Proof.core (n + 2) s = Host.Core.run Sys2Proof.core n (decoded ops s) := by
  have hfault : tokenFault Config.params (started .decode ops s) = none := hf
  exact run_command .decode ops hp hs (exec_decode_accepted hfault) n

/-- `RESOLVE` and then `DERIVE` where the checksums agree and the operands of `DERIVE` are legal: both succeed. -/
theorem run_resolve_derive {s : State} (hp : s.phase = .idle) (hs : s.script = [commandTurn 0x02#8, commandTurn 0x04#8])
    (hsum : computedChecksum Config.params s.encSeed = s.checksum) (hdigits : digitsLegal s = true)
    (hinterval : intervalLegal s = true) (htime : timeLegal s = true) :
    ∃ t, Host.Core.run Sys2Proof.core 4 s = .next t ∧ t.phase = .idle ∧ t.script = [] ∧ t.err = 0#8 ∧ t.errInfo = 0#8 ∧
      t.seedV = true ∧ t.codeV = true ∧ t.seed = candidateSeed Config.params s.encSeed ∧
      t.code = codeBytes
        (wordAt
          (deriveKey Config.params (candidateSeed Config.params s.encSeed)
            (timestampBytes (anchorOf s.time.toNat s.interval.toNat)) (serialSuffix s))
          (subIndexOf s.time.toNat s.interval.toNat))
        s.digits.toNat := by
  have hresolve := exec_resolve_of_eq (s := started .resolve [0x04#8] s) hsum
  have hderive := exec_derive_legal (s := started .derive [] (succeed
      { started .resolve [0x04#8] s with seed := candidateSeed Config.params s.encSeed, seedV := true,
                                         trace := resolveTrace Config.params s.encSeed }))
    (deriveFault_eq_none.mpr ⟨rfl, hdigits, hinterval, htime⟩)
  have hrun := (run_command .resolve [0x04#8] hp hs hresolve 2).trans (run_command .derive [] rfl rfl hderive 0)
  exact ⟨_, hrun, rfl, rfl, rfl, rfl, rfl, rfl, rfl, rfl⟩

/-- `RESOLVE` and then `DERIVE` where the checksums differ: no seed is left, so `DERIVE` is refused. -/
theorem run_resolve_derive_refused {s : State} (hp : s.phase = .idle)
    (hs : s.script = [commandTurn 0x02#8, commandTurn 0x04#8])
    (hsum : computedChecksum Config.params s.encSeed ≠ s.checksum) :
    ∃ t, Host.Core.run Sys2Proof.core 4 s = .next t ∧ t.phase = .idle ∧ t.script = [] ∧ t.err = 5#8 ∧ t.errInfo = 0#8 ∧
      t.seedV = false ∧ t.codeV = false ∧ t.seed = rep 16 0#8 ∧ t.code = rep 8 0#8 := by
  have hresolve := exec_resolve_of_ne (s := started .resolve [0x04#8] s) hsum
  have hderive := exec_derive_not_ready (s := started .derive [] (raise .integrityError 0#8
      { started .resolve [0x04#8] s with seed := rep 16 0#8, seedV := false,
                                         trace := resolveTrace Config.params s.encSeed })) rfl
  have hrun := (run_command .resolve [0x04#8] hp hs hresolve 2).trans (run_command .derive [] rfl rfl hderive 0)
  exact ⟨_, hrun, rfl, rfl, rfl, rfl, rfl, rfl, rfl, rfl⟩

/-- Settles O58: `DECODE` accepts the token string and leaves legal operands; whether `RESOLVE` gives `DERIVE` a seed is then a
matter of the two checksums. -/
theorem tokenStringGivesCode : Obligations.TokenStringGivesCode := by
  intro s hp hs hlength hserial hfields hT buf cand I ts suffix
  have haccepted : tokenFault Config.params s = none :=
    tokenFault_accepted hlength (all_tokSlice_iff.mpr hserial) (all_tokSlice_iff.mpr hfields)
  have hdecode := run_decode (ops := [0x02#8, 0x04#8]) hp hs haccepted 4
  have hsuffix : serialSuffix (decoded [0x02#8, 0x04#8] s) = suffix := serialSuffix_storeToken _
  by_cases hsum : top15 (macDigest Config.params cand.toList) = checksumField buf
  · obtain ⟨t, hrun, hidle, hscript, herr, hinfo, hseedV, hcodeV, hseed, hcode⟩ :=
      run_resolve_derive (s := decoded [0x02#8, 0x04#8] s) rfl rfl hsum (digitsLegal_storeToken _)
        (intervalLegal_storeToken _) (timeLegal_iff.mpr hT)
    rw [hsuffix] at hcode
    exact ⟨t, hdecode.trans hrun, hidle, hscript, fun _ => ⟨herr, hinfo, hseedV, hcodeV, hseed, hcode⟩,
      fun hne => absurd hsum hne⟩
  · obtain ⟨t, hrun, hidle, hscript, hrefused⟩ :=
      run_resolve_derive_refused (s := decoded [0x02#8, 0x04#8] s) rfl rfl hsum
    exact ⟨t, hdecode.trans hrun, hidle, hscript, fun heq => absurd heq hsum, fun _ => hrefused⟩

end Sys2Proof.Machine
end
